-- ==== Sys2Proof/Word.lean ====
section
/-! DEFINITION. The machine word: every register, operand and command word of SQLE is 64 bits wide (00_scope.md R5, `XLEN`). -/

namespace Sys2Proof

/-- A 64-bit pattern: a register's contents, a command word, a binary64 pattern (00_scope.md R5, R6). -/
abbrev Word := BitVec 64

end Sys2Proof
end

