-- ==== Sys2Proof/Syntax.lean ====
section
/-! DEFINITION. The ten commands of SQLE, one constructor per row of spec/opcode_table.json (30_encoding.md R73). -/

namespace Sys2Proof

/-- A decoded command (30_encoding.md R73). A width operand is the number held in the word's `W` field (R71); every other operand
is a register. -/
inductive Instr where
  /-- `NOP`, `OP = 0x00` (40_common.md R96). -/
  | nop
  /-- `CONFIG`, `OP = 0x01`: `num_bits` from `W`, `force_zero_level` from `FZL` (41_quantizer.md R114). -/
  | config (nb : Nat) (fzl : Bool)
  /-- `QUANT`, `OP = 0x02` (41_quantizer.md R118). -/
  | quant
  /-- `DEQUANT`, `OP = 0x03` (41_quantizer.md R122). -/
  | dequant
  /-- `LEVEL`, `OP = 0x04` (41_quantizer.md R125). -/
  | level
  /-- `THRLD`, `OP = 0x05` (41_quantizer.md R128). -/
  | thrld
  /-- `ONEBIT`, `OP = 0x06` (41_quantizer.md R131). -/
  | onebit
  /-- `I2B`, `OP = 0x10`: the vector's length from `W` (42_bitcodec.md R150, R156). -/
  | i2b (w : Nat)
  /-- `B2I`, `OP = 0x11`: the vector's length from `W` (42_bitcodec.md R152, R156). -/
  | b2i (len : Nat)
  /-- `I2T`, `OP = 0x12`: the exponent of the vector's length from `W` (42_bitcodec.md R154, R156). -/
  | i2t (b : Nat)
deriving DecidableEq, Repr

/-- A command's name, as spec/opcode_table.json spells it. -/
def Instr.mnemonic : Instr → String
  | .nop => "NOP"
  | .config _ _ => "CONFIG"
  | .quant => "QUANT"
  | .dequant => "DEQUANT"
  | .level => "LEVEL"
  | .thrld => "THRLD"
  | .onebit => "ONEBIT"
  | .i2b _ => "I2B"
  | .b2i _ => "B2I"
  | .i2t _ => "I2T"

end Sys2Proof
end

