-- ==== Sys2Proof/WellFormed.lean ====
section
/-! DEFINITION. Which commands a command word can hold: a width operand fits the 8-bit field `W` (30_encoding.md R71). -/

namespace Sys2Proof

/-- A width fits the field `W`, "range 0 to 255" (30_encoding.md R71). -/
def widthFits (w : Nat) : Bool := w < 2 ^ 8

/-- A command has an encoding. Which widths a command ACCEPTS is checked at execution, not here (30_encoding.md R71). -/
def Instr.wellFormed : Instr → Bool
  | .nop => true
  | .config nb _ => widthFits nb
  | .quant => true
  | .dequant => true
  | .level => true
  | .thrld => true
  | .onebit => true
  | .i2b w => widthFits w
  | .b2i len => widthFits len
  | .i2t b => widthFits b

end Sys2Proof
end

