-- ==== Sys2Proof/Decode.lean ====
section
/-! DEFINITION. Reading a command word (30_encoding.md R70, R74, R75), writing one (R70, R76), and the machine-readable opcode
table (R73, R74). -/

namespace Sys2Proof

/-- Why a command word decodes as `ILLEGAL` (30_encoding.md R75). The machine reports the same error for each. -/
inductive IllegalWord where
  /-- `RSV != 0`. -/
  | reservedBits
  /-- `OP` is not in the opcode map. -/
  | unknownOpcode
  /-- `W != 0` in a command that takes no width. -/
  | unusedWidth
  /-- `FZL = 1` outside CONFIG. -/
  | unusedFzl
deriving DecidableEq, Repr

/-- Field `OP`, bits 7:0 (30_encoding.md R70). -/
def opField (word : Word) : Nat := (word.extractLsb' 0 8).toNat

/-- Field `W`, bits 15:8, zero-extended (30_encoding.md R70, R71). -/
def widthField (word : Word) : Nat := (word.extractLsb' 8 8).toNat

/-- Field `FZL`, bit 16 (30_encoding.md R70). -/
def fzlField (word : Word) : Bool := word.getLsbD 16

/-- Field `RSV`, bits 63:17 (30_encoding.md R70). -/
def rsvField (word : Word) : Nat := (word.extractLsb' 17 47).toNat

/-- A command that uses neither `W` nor `FZL` (30_encoding.md R74). -/
def decodePlain (word : Word) (i : Instr) : Except IllegalWord Instr :=
  if widthField word ≠ 0 then .error .unusedWidth
  else if fzlField word then .error .unusedFzl
  else .ok i

/-- A command that uses `W` and not `FZL` (30_encoding.md R74). -/
def decodeWidth (word : Word) (mk : Nat → Instr) : Except IllegalWord Instr :=
  if fzlField word then .error .unusedFzl else .ok (mk (widthField word))

/-- The decoder, total on all command words (30_encoding.md R74). -/
def decode (word : Word) : Except IllegalWord Instr :=
  if rsvField word ≠ 0 then .error .reservedBits
  else match opField word with
    | 0x00 => decodePlain word .nop
    | 0x01 => .ok (.config (widthField word) (fzlField word))
    | 0x02 => decodePlain word .quant
    | 0x03 => decodePlain word .dequant
    | 0x04 => decodePlain word .level
    | 0x05 => decodePlain word .thrld
    | 0x06 => decodePlain word .onebit
    | 0x10 => decodeWidth word .i2b
    | 0x11 => decodeWidth word .b2i
    | 0x12 => decodeWidth word .i2t
    | _ => .error .unknownOpcode

/-- The word `RSV = 0, FZL, W, OP` from high to low (30_encoding.md R70, R76). -/
def commandWord (op w : Nat) (fzl : Bool) : Word :=
  0#47 ++ BitVec.ofBool fzl ++ BitVec.ofNat 8 w ++ BitVec.ofNat 8 op

/-- The encoder: the word the assembler writes for a command (30_encoding.md R73, R76). -/
def encode : Instr → Word
  | .nop => commandWord 0x00 0 false
  | .config nb fzl => commandWord 0x01 nb fzl
  | .quant => commandWord 0x02 0 false
  | .dequant => commandWord 0x03 0 false
  | .level => commandWord 0x04 0 false
  | .thrld => commandWord 0x05 0 false
  | .onebit => commandWord 0x06 0 false
  | .i2b w => commandWord 0x10 w false
  | .b2i len => commandWord 0x11 len false
  | .i2t b => commandWord 0x12 b false

/-- The command word whose bits below `nbits` are those of `w` and whose other bits are 0. A command word is one 64-bit value
written to `CMD`, so it is not laid out in bytes (30_encoding.md R70). -/
def tableWord (nbits w : Nat) : Word := BitVec.ofNat 64 (w % 2 ^ nbits)

/-- The command that the decoder reads from a word of `nbits` bits, bit 0 first (every row of opcode_table.json has 64). -/
def decodeTableWord (nbits w : Nat) : Option Instr :=
  (decode (tableWord nbits w)).toOption

/-- One row of the machine-readable opcode table (30_encoding.md R73, R74). -/
structure TableRow where
  /-- the row's mnemonic -/
  mnemonic : String
  /-- the value of the fixed bits -/
  pattern : Word
  /-- which bits are fixed -/
  mask : Word
deriving DecidableEq, Repr

/-- A word spells the command of a row: `w & r.mask = r.match` (30_encoding.md R74). -/
def TableRow.spells (r : TableRow) (word : Word) : Bool := word &&& r.mask == r.pattern

/-- The opcode table (opcode_table.json; 30_encoding.md R73). -/
def opcodeTable : List TableRow :=
  [⟨"NOP", 0x0000000000000000#64, 0xFFFFFFFFFFFFFFFF#64⟩,
   ⟨"CONFIG", 0x0000000000000001#64, 0xFFFFFFFFFFFE00FF#64⟩,
   ⟨"QUANT", 0x0000000000000002#64, 0xFFFFFFFFFFFFFFFF#64⟩,
   ⟨"DEQUANT", 0x0000000000000003#64, 0xFFFFFFFFFFFFFFFF#64⟩,
   ⟨"LEVEL", 0x0000000000000004#64, 0xFFFFFFFFFFFFFFFF#64⟩,
   ⟨"THRLD", 0x0000000000000005#64, 0xFFFFFFFFFFFFFFFF#64⟩,
   ⟨"ONEBIT", 0x0000000000000006#64, 0xFFFFFFFFFFFFFFFF#64⟩,
   ⟨"I2B", 0x0000000000000010#64, 0xFFFFFFFFFFFF00FF#64⟩,
   ⟨"B2I", 0x0000000000000011#64, 0xFFFFFFFFFFFF00FF#64⟩,
   ⟨"I2T", 0x0000000000000012#64, 0xFFFFFFFFFFFF00FF#64⟩]

end Sys2Proof
end

