-- ==== Sys2Proof/Config.lean ====
section
/-! DEFINITION. What the implementation fixes (00_scope.md R5) and the values the spec leaves open, as constants without a body. -/

namespace Sys2Proof

/-- Smallest quantizer `num_bits` that CONFIG accepts (00_scope.md R5). -/
def Config.nbMin : Nat := 1

/-- Largest quantizer `num_bits` that CONFIG accepts (00_scope.md R5, decision D27). -/
def Config.nbMax : Nat := 32

/-- Largest width of I2B and B2I (00_scope.md R5, decision D21). -/
def Config.bwMax : Nat := 64

/-- Largest thermometer exponent of I2T (00_scope.md R5, decision D25). -/
def Config.tbMax : Nat := 8

/-- Size of the register window in bytes (00_scope.md R5, decision D2). -/
def Config.window : Nat := 256

/-- The arithmetic operations of 00_scope.md R10 that can answer a NaN. -/
inductive FpOp where
  | add
  | sub
  | mul
  | div
  | rint
deriving DecidableEq, Repr

/-- DESIGN CHOICE (log 6, safe). The NaN pattern an operation answers on the given operand patterns: the spec says only that it
is a NaN (00_scope.md R10). No body, so no proof can learn a bit of it; its user makes it a quiet NaN. -/
opaque Config.nanResult : FpOp → Word → Word → Word

/-- DESIGN CHOICE (log 7, safe). What `f2u` answers outside the domain 00_scope.md R10 states for it. -/
opaque Config.f2uUnstated : Word → Word

/-- The platform's window base `SQLE_BASE`, left open by 20_memory.md R50 (93_implementation_defined.md I15; log 12). -/
opaque Config.sqleBase : Nat

end Sys2Proof
end

