-- ==== Sys2Proof/Machine/Binary64.lean ====
section
/-! DEFINITION. The floating-point primitives of 00_scope.md R10, computed exactly: a finite binary64 is a whole number of units
of 2^-1074 with a sign, every operation computes its exact result as a rational number of units, and one function rounds it.
The IEEE 754 semantics is PRESUMED (log 8): R10 marks it as general knowledge. -/

namespace Sys2Proof.Machine

/-- What a 64-bit pattern means as a binary64 (00_scope.md R6). -/
inductive Binary64 where
  /-- a NaN, with its whole pattern -/
  | nan (pattern : Word)
  /-- an infinity -/
  | inf (neg : Bool)
  /-- the number `units * 2^-1074`, negated if `neg` -/
  | fin (neg : Bool) (units : Nat)
deriving DecidableEq, Repr

/-- The number 1 in units of 2^-1074, the smallest subnormal. Irreducible, so that a proof does not unfold the power by accident;
the kernel evaluates it. -/
@[irreducible] def oneUnits : Nat := 2 ^ 1074

/-- 2^1024 in units: the least power of two that is no binary64. Irreducible for the same reason. -/
@[irreducible] def overflowUnits : Nat := 2 ^ 2098

/-- How many binary places above the subnormal step a magnitude's step lies: a magnitude of n bits keeps its top 53. -/
def stepShift (units : Nat) : Nat := Nat.log2 units - 52

/-- Round the exact magnitude `num / den` units to the nearest multiple of the step of its own binade, ties to the multiple whose
significand is even (00_scope.md R10: "rounds its exact result once, to nearest with ties to even, with subnormal results
kept"). -/
def roundUnits (num den : Nat) : Nat :=
  let shift := stepShift (num / den)
  let step := den * 2 ^ shift
  let low := num / step
  let twice := 2 * (num % step)
  let up := decide (step < twice) || (decide (twice = step) && low % 2 == 1)
  (low + up.toNat) * 2 ^ shift

/-- Round the exact value `num / den` units, negated if `neg`, to a binary64. A rounded magnitude of 2^1024 or more is an
infinity (00_scope.md R10; log 8). -/
def roundTo (neg : Bool) (num den : Nat) : Binary64 :=
  let units := roundUnits num den
  if units < overflowUnits then .fin neg units else .inf neg

/-- Read a 64-bit pattern: bit 63 sign, bits 62:52 biased exponent, bits 51:0 fraction (00_scope.md R6). -/
def ofWord (w : Word) : Binary64 :=
  let neg := w.getLsbD 63
  let exponent := (w.extractLsb' 52 11).toNat
  let fraction := (w.extractLsb' 0 52).toNat
  if exponent = 2047 then
    if fraction = 0 then .inf neg else .nan w
  else if exponent = 0 then .fin neg fraction
  else .fin neg ((2 ^ 52 + fraction) * 2 ^ (exponent - 1))

/-- The exponent and fraction bits of a finite magnitude, as a number. -/
def magnitudeBits (units : Nat) : Nat :=
  stepShift units * 2 ^ 52 + units / 2 ^ stepShift units

/-- Bit 63 set or clear over 63 low bits. -/
def signed (neg : Bool) (low : Nat) : Word := BitVec.ofBool neg ++ BitVec.ofNat 63 low

/-- The 64-bit pattern of a binary64 (00_scope.md R6). -/
def toWord : Binary64 → Word
  | .nan pattern => pattern
  | .inf neg => signed neg (2047 * 2 ^ 52)
  | .fin neg units => signed neg (magnitudeBits units)

/-- `isnan(a)` (00_scope.md R10). -/
def isnan : Binary64 → Bool
  | .nan _ => true
  | _ => false

/-- `isinf(a)` (00_scope.md R10). -/
def isinf : Binary64 → Bool
  | .inf _ => true
  | _ => false

/-- `isfinite(a)` (00_scope.md R10). -/
def isfinite : Binary64 → Bool
  | .fin _ _ => true
  | _ => false

/-- `a = 0`, of either sign (41_quantizer.md R113 condition 4). -/
def isZero : Binary64 → Bool
  | .fin _ units => units == 0
  | _ => false

/-- A finite number's value in units, with its sign. -/
def signedUnits (neg : Bool) (units : Nat) : Int := if neg then -(units : Int) else units

/-- The NaN an operation answers: a quiet NaN whose sign and payload are free (log 6). -/
def nanOf (op : FpOp) (a b : Binary64) : Binary64 :=
  .nan (Config.nanResult op (toWord a) (toWord b) ||| 0x7FF8000000000000#64)

/-- A number of the other sign; a NaN is left as it is. -/
def negate : Binary64 → Binary64
  | .nan pattern => .nan pattern
  | .inf neg => .inf (!neg)
  | .fin neg units => .fin (!neg) units

/-- The sum of two finite numbers. A zero sum is `-0` only if both are negative (log 8). -/
def addFinite (na : Bool) (ua : Nat) (nb : Bool) (ub : Nat) : Binary64 :=
  let sum := signedUnits na ua + signedUnits nb ub
  if sum = 0 then .fin (na && nb) 0 else roundTo (decide (sum < 0)) sum.natAbs 1

/-- Addition, answering the given NaN where the result is one. -/
def addOrNaN (nan : Binary64) : Binary64 → Binary64 → Binary64
  | .fin na ua, .fin nb ub => addFinite na ua nb ub
  | .inf na, .inf nb => if na = nb then .inf na else nan
  | .inf na, .fin _ _ => .inf na
  | .fin _ _, .inf nb => .inf nb
  | .nan _, _ => nan
  | _, .nan _ => nan

/-- `fadd(a, b)` (00_scope.md R10). -/
def fadd (a b : Binary64) : Binary64 := addOrNaN (nanOf .add a b) a b

/-- `fsub(a, b)` (00_scope.md R10). -/
def fsub (a b : Binary64) : Binary64 := addOrNaN (nanOf .sub a b) a (negate b)

/-- `fmul(a, b)` (00_scope.md R10). -/
def fmul (a b : Binary64) : Binary64 :=
  match a, b with
  | .fin na ua, .fin nb ub => roundTo (na ^^ nb) (ua * ub) oneUnits
  | .inf na, .inf nb => .inf (na ^^ nb)
  | .inf na, .fin nb ub => if ub = 0 then nanOf .mul a b else .inf (na ^^ nb)
  | .fin na ua, .inf nb => if ua = 0 then nanOf .mul a b else .inf (na ^^ nb)
  | .nan _, _ => nanOf .mul a b
  | _, .nan _ => nanOf .mul a b

/-- `fdiv(a, b)` (00_scope.md R10). -/
def fdiv (a b : Binary64) : Binary64 :=
  match a, b with
  | .fin na ua, .fin nb ub =>
    if ub = 0 then (if ua = 0 then nanOf .div a b else .inf (na ^^ nb))
    else roundTo (na ^^ nb) (ua * oneUnits) ub
  | .inf _, .inf _ => nanOf .div a b
  | .inf na, .fin nb _ => .inf (na ^^ nb)
  | .fin na _, .inf nb => .fin (na ^^ nb) 0
  | .nan _, _ => nanOf .div a b
  | _, .nan _ => nanOf .div a b

/-- `fabs(a)`: `a` with bit 63 cleared (00_scope.md R10). -/
def fabs : Binary64 → Binary64
  | .nan pattern => .nan (pattern &&& 0x7FFFFFFFFFFFFFFF#64)
  | .inf _ => .inf false
  | .fin _ units => .fin false units

/-- A magnitude rounded to a whole number, ties to even. -/
def roundWhole (units : Nat) : Nat :=
  let low := units / oneUnits
  let twice := 2 * (units % oneUnits)
  let up := decide (oneUnits < twice) || (decide (twice = oneUnits) && low % 2 == 1)
  low + up.toNat

/-- `rint(a)`: round to an integral value, ties to even; the sign is kept, also on a zero (00_scope.md R10). -/
def rint : Binary64 → Binary64
  | .nan pattern => nanOf .rint (.nan pattern) (.nan pattern)
  | .inf neg => .inf neg
  | .fin neg units => .fin neg (roundWhole units * oneUnits)

/-- `i2f(n)`: a signed integer as a binary64, rounded to nearest, ties to even (00_scope.md R10). -/
def i2f (n : Int) : Binary64 := roundTo (decide (n < 0)) (n.natAbs * oneUnits) 1

/-- `u2f(n)`: the same for an unsigned integer (00_scope.md R10). -/
def u2f (n : Nat) : Binary64 := roundTo false (n * oneUnits) 1

/-- A binary64 is an integer from 0 to 2^64 - 1: the domain 00_scope.md R10 states for `f2u`. `-0` is the integer 0
(41_quantizer.md R117). -/
def f2uStated : Binary64 → Bool
  | .fin neg units => units % oneUnits == 0 && decide (units / oneUnits < 2 ^ 64) && (!neg || units == 0)
  | _ => false

/-- The magnitude of a finite number, rounded down to a whole number. -/
def wholePart : Binary64 → Nat
  | .fin _ units => units / oneUnits
  | _ => 0

/-- `f2u(a)`: the integer that an integral binary64 equals; outside its stated domain a free value (00_scope.md R10; log 7). -/
def f2u (a : Binary64) : Word :=
  if f2uStated a then BitVec.ofNat 64 (wholePart a) else Config.f2uUnstated (toWord a)

/-- `flt(a, b)`: quiet less-than, false on a NaN, `-0` equal to `+0` (00_scope.md R10). -/
def flt : Binary64 → Binary64 → Bool
  | .fin na ua, .fin nb ub => decide (signedUnits na ua < signedUnits nb ub)
  | .inf na, .inf nb => na && !nb
  | .inf na, .fin _ _ => na
  | .fin _ _, .inf nb => !nb
  | .nan _, _ => false
  | _, .nan _ => false

/-- `fgt(a, b)`: quiet greater-than (00_scope.md R10). -/
def fgt (a b : Binary64) : Bool := flt b a

/-- The number 2.0. -/
def two : Binary64 := .fin false (2 * oneUnits)

end Sys2Proof.Machine
end

