-- ==== Sys2Proof/Machine/State.lean ====
section
/-! DEFINITION. The architectural state of SQLE (10_state.md R21 to R29), the host's accesses and the platform's reset as inputs
(20_memory.md R53; 70_reset_and_hazards.md R200, R205), the reasons a step can stop, and the state after reset. -/

namespace Sys2Proof.Machine

/-- The error codes of 60_exceptions.md R180. Codes 7 to 15 are never written, so they have no constructor
(93_implementation_defined.md I12). -/
inductive ErrorCode where
  /-- 0 `NONE`: the command succeeded. -/
  | noError
  /-- 1 `UNSUPPORTED`: CONFIG with `FZL = 1`. -/
  | unsupported
  /-- 2 `BAD_CONFIG`: CONFIG of an invalid configuration. -/
  | badConfig
  /-- 3 `NOT_CONFIGURED`: a quantizer command with `CFG_VALID = 0`. -/
  | notConfigured
  /-- 4 `RANGE`: LEVEL, THRLD or I2T out of range. -/
  | range
  /-- 5 `BAD_WIDTH`: I2B, B2I or I2T with a width above its limit. -/
  | badWidth
  /-- 6 `ILLEGAL`: a command word that decodes as illegal. -/
  | illegal
deriving DecidableEq, Repr, Inhabited

/-- The fields of `STATUS` (10_state.md R24). Its reserved bits read 0 and nothing writes them: they are put in where the
register is read (log 10). -/
structure Status where
  /-- bit 0, a valid configuration is committed -/
  cfgValid : Bool
  /-- bit 1, some command has ended in an error since the host last cleared the bit -/
  errSticky : Bool
  /-- bit 2, the last successful QUANT saturated at index 0 from below -/
  satLo : Bool
  /-- bit 3, the last successful QUANT saturated at `max_index` from above -/
  satHi : Bool
  /-- bit 4, the last successful QUANT had a NaN quotient -/
  nanIn : Bool
  /-- bits 11:8, the error code of the last command -/
  errCode : ErrorCode
deriving DecidableEq, Repr, Inhabited

/-- The registers of the window (10_state.md R22). `CMD` holds no value (R23), so it is no field. DEDUCED, unsafe (log 20): R21 speaks of
sixteen registers, and R22's table names fifteen, `CMD` among them; the model follows the table and has no sixteenth. -/
structure Registers where
  /-- 0x08 `STATUS` (R24) -/
  status : Status
  /-- 0x10 `OPA` (R25) -/
  opa : Word
  /-- 0x18 `OPB` (R25) -/
  opb : Word
  /-- 0x20 `THRESH` (R26) -/
  thresh : Word
  /-- 0x28 `RES0` (R27) -/
  res0 : Word
  /-- 0x30 `RES1` (R27) -/
  res1 : Word
  /-- 0x38 `RES2` (R27) -/
  res2 : Word
  /-- 0x40 `RES3` (R27) -/
  res3 : Word
  /-- 0x48 `NBITS` (R28) -/
  nbits : Word
  /-- 0x50 `XMIN` (R28) -/
  xmin : Word
  /-- 0x58 `XMAX` (R28) -/
  xmax : Word
  /-- 0x60 `DELTA` (R29) -/
  delta : Word
  /-- 0x68 `XMINQ` (R29) -/
  xminq : Word
  /-- 0x70 `MAXIDX` (R29) -/
  maxidx : Word
deriving DecidableEq, Repr, Inhabited

/-- One access of the host to the window: its byte offset from the window base, its width in bits and, for a write, the value
(20_memory.md R53). The width and the offset are unrestricted, so that a not-admitted access can be written down. -/
inductive Access where
  | read (off : Int) (bits : Nat)
  | write (off : Int) (bits : Nat) (value : Word)
deriving DecidableEq, Repr

/-- What reaches the block from outside: an access of the host, or the platform moving the reset line (log 4). -/
inductive HostEvent where
  | access (a : Access)
  | resetLine (asserted : Bool)
deriving DecidableEq, Repr

/-- The machine and the run it is in. -/
structure State where
  /-- the registers of the window (10_state.md R22) -/
  regs : Registers
  /-- the platform holds reset asserted (70_reset_and_hazards.md R200) -/
  inReset : Bool
  /-- the host program: the accesses in the order the host issues them (10_state.md R39; 70_reset_and_hazards.md R205) -/
  program : List HostEvent
  /-- the position in the program, "the part of a program counter" (70_reset_and_hazards.md R205) -/
  pos : Nat
  /-- the values the program's reads returned, oldest first (70_reset_and_hazards.md R205) -/
  readValues : List Word
deriving DecidableEq, Repr

/-- Why a run stops. Each is the bus error that answers a not-admitted access (20_memory.md R53; 60_exceptions.md R188): SQLE's
state is unchanged and the run has no final state. Safe: the spec itself makes the run fault there. -/
inductive Fault where
  /-- Raised by an access of a width other than 64 bits (R53). Safe. -/
  | busErrorWidth
  /-- Raised by an access at an offset that is not a multiple of 8 (R53). Safe. -/
  | busErrorMisaligned
  /-- Raised by an access outside the window (R53). Safe. -/
  | busErrorOutsideWindow
  /-- Raised by any access while reset is asserted (70_reset_and_hazards.md R200; DEDUCED, log 4). Safe. -/
  | busErrorInReset
deriving DecidableEq, Repr

/-- Reasons to give an instruction no meaning. No step of this model answers one. -/
inductive Refusal where
  /-- Raised by an arm of `exec` whose instruction has no meaning yet; no arm does so. Safe. -/
  | notModelled (mnemonic : String)
deriving DecidableEq, Repr

/-- `STATUS = 0` (70_reset_and_hazards.md R200). -/
def Status.reset : Status where
  cfgValid := false
  errSticky := false
  satLo := false
  satHi := false
  nanIn := false
  errCode := .noError

/-- Every register's value when reset is released (70_reset_and_hazards.md R200; the column "reset" of 10_state.md R22). -/
def Registers.reset : Registers where
  status := Status.reset
  opa := 0
  opb := 0
  thresh := 0x0000000000000000#64
  res0 := 0
  res1 := 0
  res2 := 0
  res3 := 0
  nbits := 0
  xmin := 0
  xmax := 0
  delta := 0
  xminq := 0
  maxidx := 0

/-- The machine right after reset: every register at its reset value, the reset line released, no host program placed and no
value read (70_reset_and_hazards.md R200, R201; log 1). -/
def State.reset : State where
  regs := Registers.reset
  inReset := false
  program := []
  pos := 0
  readValues := []

end Sys2Proof.Machine

/-- DESIGN CHOICE (log 5, safe). What the registers hold from the moment the platform asserts reset until it releases it, given
the position of the assertion in the run: 70_reset_and_hazards.md R205 says nothing "about the state during reset". -/
opaque Sys2Proof.Config.registersDuringReset : Nat → Sys2Proof.Machine.Registers
end

