-- ==== Sys2Proof/Machine/Operands.lean ====
section
/-! DEFINITION. Every operand form of SQLE: which register a command reads and as what type (10_state.md R25, R26, R28, R29), and
the packing of vectors into register bits (10_state.md R31). -/

namespace Sys2Proof.Machine

/-- `as_u64(v)`: the pattern read as an unsigned number (00_scope.md R7). -/
def asU64 (v : Word) : Nat := v.toNat

/-- `as_s64(v)`: the pattern read as two's complement (00_scope.md R7). -/
def asS64 (v : Word) : Int := v.toInt

/-- `mask(w)`: the w-bit all-ones value (00_scope.md R7). -/
def mask (w : Nat) : Nat := 2 ^ w - 1

/-- `OPA` as a binary64: `xmin` for CONFIG, `x` for QUANT and ONEBIT (10_state.md R25). -/
def opaBinary64 (r : Registers) : Binary64 := ofWord r.opa

/-- `OPB` as a binary64: `xmax` for CONFIG (10_state.md R25). -/
def opbBinary64 (r : Registers) : Binary64 := ofWord r.opb

/-- `OPA` as a u64 position: LEVEL and THRLD (10_state.md R25). -/
def opaU64 (r : Registers) : Nat := asU64 r.opa

/-- `OPA` as an s64: DEQUANT, I2B and I2T (10_state.md R25). -/
def opaS64 (r : Registers) : Int := asS64 r.opa

/-- `THRESH` as a binary64: ONEBIT (10_state.md R26). -/
def threshBinary64 (r : Registers) : Binary64 := ofWord r.thresh

/-- `DELTA` as a binary64 (10_state.md R29). -/
def deltaBinary64 (r : Registers) : Binary64 := ofWord r.delta

/-- `XMINQ` as a binary64 (10_state.md R29). -/
def xminqBinary64 (r : Registers) : Binary64 := ofWord r.xminq

/-- `MAXIDX` as a u64 (10_state.md R29). -/
def maxidxU64 (r : Registers) : Nat := asU64 r.maxidx

/-- `NBITS` as a u64 (10_state.md R28). -/
def nbitsU64 (r : Registers) : Nat := asU64 r.nbits

/-- `(n >> i) & 1` on a mathematical integer, the shift arithmetic (42_bitcodec.md R150, R151; log 13). -/
def signedBit (n : Int) (i : Nat) : Bool := (n >>> i) % 2 == 1

/-- A field of `len` bits, built bit by bit from bit 0 up: the loops of 42_bitcodec.md R150, R152 and R154. -/
def fieldOfBits (bit : Nat → Bool) : Nat → Nat
  | 0 => 0
  | len + 1 => fieldOfBits bit len + (bit len).toNat * 2 ^ len

/-- Element `j` of the vector of length `len` held in a field: bit `len - 1 - j` (10_state.md R31). -/
def vectorElement (len field j : Nat) : Bool := field.testBit (len - 1 - j)

/-- The vector `e[0], …, e[len-1]` held in a field, first element first (00_scope.md R8; 10_state.md R31). -/
def vectorOf (len field : Nat) : List Bool := (List.range len).map (vectorElement len field)

/-- The result words `{RES3, RES2, RES1, RES0}` as one 256-bit field (10_state.md R31). -/
def resultField (r : Registers) : Nat :=
  (r.res3 ++ r.res2 ++ r.res1 ++ r.res0).toNat

/-- Word `m` of a field: bits `64m+63` down to `64m` (10_state.md R31). -/
def fieldWord (field m : Nat) : Word := BitVec.ofNat 64 (field / 2 ^ (64 * m))

end Sys2Proof.Machine
end

