-- ==== Sys2Proof/Machine/Flags.lean ====
section
/-! DEFINITION. Every flag computation: the fields of `STATUS` and who writes them (10_state.md R24, R32), the numbers of the error
codes (60_exceptions.md R180), and QUANT's saturation flags (41_quantizer.md R119). -/

namespace Sys2Proof.Machine

/-- The number of an error code (60_exceptions.md R180). -/
def errorNumber : ErrorCode → Nat
  | .noError => 0
  | .unsupported => 1
  | .badConfig => 2
  | .notConfigured => 3
  | .range => 4
  | .badWidth => 5
  | .illegal => 6

/-- The word a read of `STATUS` answers: bits 63:12 and 7:5 are 0 (10_state.md R24). -/
def statusWord (st : Status) : Word :=
  0#52 ++ BitVec.ofNat 4 (errorNumber st.errCode) ++ 0#3 ++ BitVec.ofBool st.nanIn ++ BitVec.ofBool st.satHi
    ++ BitVec.ofBool st.satLo ++ BitVec.ofBool st.errSticky ++ BitVec.ofBool st.cfgValid

/-- What a successful command writes in `STATUS`: `ERR_CODE <- 0` (40_common.md R92). -/
def Status.withSuccess (st : Status) : Status := { st with errCode := .noError }

/-- What an erroring command writes in `STATUS`: `ERR_CODE <- code`, `ERR_STICKY <- 1` (40_common.md R93). -/
def Status.withError (code : ErrorCode) (st : Status) : Status := { st with errCode := code, errSticky := true }

/-- What a successful CONFIG writes in `STATUS` beside its success: `CFG_VALID <- 1` (41_quantizer.md R114). -/
def Status.withConfigured (st : Status) : Status := { st with cfgValid := true }

/-- QUANT's three flags (41_quantizer.md R117, R119). -/
structure QuantFlags where
  /-- the rounded index was raised to 0 -/
  lo : Bool
  /-- the rounded index was lowered to `max_index` -/
  hi : Bool
  /-- the rounded quotient was NaN -/
  nan : Bool
deriving DecidableEq, Repr

/-- The flags of a rounded quotient against `max_index` (41_quantizer.md R117 step 3, R119). -/
def quantFlags (rounded : Binary64) (maxIndex : Nat) : QuantFlags where
  lo := !isnan rounded && flt rounded (.fin false 0)
  hi := !isnan rounded && !flt rounded (.fin false 0) && fgt rounded (u2f maxIndex)
  nan := isnan rounded

/-- What a successful QUANT writes in `STATUS` beside its success (41_quantizer.md R118). -/
def Status.withQuantFlags (f : QuantFlags) (st : Status) : Status :=
  { st with satLo := f.lo, satHi := f.hi, nanIn := f.nan }

/-- A host write to `STATUS`: bit 1 of the value clears `ERR_STICKY`; every other bit is ignored (10_state.md R24). -/
def Status.withHostWrite (value : Word) (st : Status) : Status :=
  { st with errSticky := st.errSticky && !value.getLsbD 1 }

end Sys2Proof.Machine
end

