-- ==== Sys2Proof/Machine/Ops.lean ====
section
/-! DEFINITION. The named operations over the registers: the ends of a command (40_common.md R92, R93), the writes of the
configuration and result registers, and the host program's position and read values (70_reset_and_hazards.md R205). An error is
not a trap (60_exceptions.md R186) and nothing returns from one (R187): `raiseError` is the whole of taking an exception here. -/

namespace Sys2Proof.Machine

/-- What one step answers. -/
abbrev StepOutcome := Host.Outcome State Fault Refusal

/-- The registers with another `STATUS`. -/
def Registers.withStatus (st : Status) (r : Registers) : Registers := { r with status := st }

/-- The registers with the four result words written (10_state.md R27). -/
def Registers.withResults (r0 r1 r2 r3 : Word) (r : Registers) : Registers :=
  { r with res0 := r0, res1 := r1, res2 := r2, res3 := r3 }

/-- The registers with the six configuration registers written (10_state.md R28, R29). -/
def Registers.withConfig (nbits xmin xmax delta xminq maxidx : Word) (r : Registers) : Registers :=
  { r with nbits := nbits, xmin := xmin, xmax := xmax, delta := delta, xminq := xminq, maxidx := maxidx }

/-- The state with other registers. -/
def State.withRegs (r : Registers) (s : State) : State := { s with regs := r }

/-- `finish_nores()`: `ERR_CODE <- 0` and nothing else (40_common.md R92). -/
def finishNores (s : State) : State :=
  s.withRegs (s.regs.withStatus s.regs.status.withSuccess)

/-- `finish(r0, r1, r2, r3)`: the four result words and `ERR_CODE <- 0` (40_common.md R92). -/
def finish (r0 r1 r2 r3 : Word) (s : State) : State :=
  finishNores (s.withRegs (s.regs.withResults r0 r1 r2 r3))

/-- `raise Error(code)`: `ERR_CODE <- code`, `ERR_STICKY <- 1` and nothing else (40_common.md R93; 60_exceptions.md R181, R186). -/
def raiseError (code : ErrorCode) (s : State) : State :=
  s.withRegs (s.regs.withStatus (s.regs.status.withError code))

/-- The test that QUANT, DEQUANT, LEVEL and THRLD make before any other (40_common.md R94). -/
def ifConfigured (s : State) (configured : State) : State :=
  if s.regs.status.cfgValid then configured else raiseError .notConfigured s

/-- Write QUANT's flags (41_quantizer.md R118). -/
def writeQuantFlags (f : QuantFlags) (s : State) : State :=
  s.withRegs (s.regs.withStatus (s.regs.status.withQuantFlags f))

/-- Commit a configuration: the six registers and `CFG_VALID <- 1` (41_quantizer.md R114). -/
def commitConfig (nbits xmin xmax delta xminq maxidx : Word) (s : State) : State :=
  s.withRegs ((s.regs.withConfig nbits xmin xmax delta xminq maxidx).withStatus s.regs.status.withConfigured)

/-- The position in the host program advances by one (70_reset_and_hazards.md R205). -/
def State.advance (s : State) : State := { s with pos := s.pos + 1 }

/-- A read returned a value to the host (70_reset_and_hazards.md R205). -/
def State.recordRead (v : Word) (s : State) : State := { s with readValues := s.readValues ++ [v] }

/-- The platform moves the reset line (70_reset_and_hazards.md R200). Asserting it leaves the registers without a stated value
(log 5); releasing an asserted line gives every register its reset value; a line that does not move changes nothing (log 4). -/
def moveResetLine (asserted : Bool) (s : State) : State :=
  match s.inReset, asserted with
  | false, true => { s with inReset := true, regs := Config.registersDuringReset s.pos }
  | true, false => { s with inReset := false, regs := Registers.reset }
  | _, _ => s

end Sys2Proof.Machine
end

