-- ==== Sys2Proof/Machine/BitCodec.lean ====
section
/-! DEFINITION. The bit codec commands (42_bitcodec.md): I2B, B2I and I2T. They neither need nor read the quantizer
configuration (40_common.md R94). -/

namespace Sys2Proof.Machine

/-- The field I2B builds: `F[i] <- (n >> i) & 1` for `i` in `0 .. w-1` (42_bitcodec.md R150). -/
def intToBits (n : Int) (w : Nat) : Nat := fieldOfBits (signedBit n) w

/-- The integer B2I builds: the sum of `v[i] << i` for `i` in `0 .. len-1` (42_bitcodec.md R152). -/
def bitsToInt (v : Word) (len : Nat) : Nat := fieldOfBits v.getLsbD len

/-- The field I2T builds: element `j`, at bit `L-1-j`, is 1 exactly when `j < k` (42_bitcodec.md R154; 10_state.md R31). -/
def intToThermometer (k len : Nat) : Nat := fieldOfBits (fun i => decide (len - 1 - i < k)) len

/-- I2B (42_bitcodec.md R150, R151; 90_conflicts.md C2). -/
def execI2b (w : Nat) (s : State) : StepOutcome :=
  if Config.bwMax < w then .next (raiseError .badWidth s)
  else .next (finish (fieldWord (intToBits (opaS64 s.regs) w) 0) 0 0 0 s)

/-- B2I (42_bitcodec.md R152). -/
def execB2i (len : Nat) (s : State) : StepOutcome :=
  if Config.bwMax < len then .next (raiseError .badWidth s)
  else .next (finish (fieldWord (bitsToInt s.regs.opa len) 0) 0 0 0 s)

/-- I2T (42_bitcodec.md R154, R155; 90_conflicts.md C8). -/
def execI2t (b : Nat) (s : State) : StepOutcome :=
  let len := 2 ^ b
  let k := opaS64 s.regs
  let field := intToThermometer k.toNat len
  if Config.tbMax < b then .next (raiseError .badWidth s)
  else if k < 0 ∨ (len : Int) < k then .next (raiseError .range s)
  else .next (finish (fieldWord field 0) (fieldWord field 1) (fieldWord field 2) (fieldWord field 3) s)

end Sys2Proof.Machine
end

