-- ==== Sys2Proof/Machine/Common.lean ====
section
/-! DEFINITION. NOP and the illegal words (40_common.md R96, R97). -/

namespace Sys2Proof.Machine

/-- NOP (40_common.md R96). -/
def execNop (s : State) : StepOutcome := .next (finishNores s)

/-- ILLEGAL: what a word that decodes as illegal does (40_common.md R97; 30_encoding.md R75). -/
def execIllegal (s : State) : StepOutcome := .next (raiseError .illegal s)

end Sys2Proof.Machine
end

