-- ==== Sys2Proof/Machine/Quantizer.lean ====
section
/-! DEFINITION. The quantizer commands (41_quantizer.md): CONFIG, QUANT, DEQUANT, LEVEL, THRLD and ONEBIT, over the derived values
and the level function of R111 and the quantize steps of R117. -/

namespace Sys2Proof.Machine

/-- `num_levels = 2^nb` (41_quantizer.md R111). -/
def numLevels (nb : Nat) : Nat := 2 ^ nb

/-- `delta = |xmax - xmin| / num_levels` (41_quantizer.md R111; 90_conflicts.md C1). -/
def deltaOf (nb : Nat) (xmin xmax : Binary64) : Binary64 :=
  fdiv (fabs (fsub xmax xmin)) (u2f (numLevels nb))

/-- `xmin_q = (xmin + delta/2) + 0*delta` (41_quantizer.md R111). -/
def xminqOf (xmin delta : Binary64) : Binary64 :=
  fadd (fadd xmin (fdiv delta two)) (fmul (u2f 0) delta)

/-- `level(i) = xmin_q + i*delta` (41_quantizer.md R111). -/
def level (r : Registers) (i : Nat) : Binary64 :=
  fadd (xminqBinary64 r) (fmul (u2f i) (deltaBinary64 r))

/-- `value(n) = n*delta + xmin_q` (41_quantizer.md R111). -/
def value (r : Registers) (n : Int) : Binary64 :=
  fadd (fmul (i2f n) (deltaBinary64 r)) (xminqBinary64 r)

/-- The checks of CONFIG in their order, R112 before R113 (41_quantizer.md R112, R113; 60_exceptions.md R184). -/
def configError (nb : Nat) (fzl : Bool) (xmin xmax : Binary64) : Option ErrorCode :=
  if fzl then some .unsupported
  else if nb < Config.nbMin ∨ Config.nbMax < nb then some .badConfig
  else if !isfinite xmin || !isfinite xmax then some .badConfig
  else if !flt xmin xmax then some .badConfig
  else if !isfinite (deltaOf nb xmin xmax) || isZero (deltaOf nb xmin xmax) then some .badConfig
  else none

/-- The registers a successful CONFIG commits (41_quantizer.md R114). -/
def commitDerived (nb : Nat) (s : State) : State :=
  let delta := deltaOf nb (opaBinary64 s.regs) (opbBinary64 s.regs)
  commitConfig (BitVec.ofNat 64 nb) s.regs.opa s.regs.opb (toWord delta) (toWord (xminqOf (opaBinary64 s.regs) delta))
    (BitVec.ofNat 64 (numLevels nb - 1)) s

/-- CONFIG (41_quantizer.md R114). -/
def execConfig (nb : Nat) (fzl : Bool) (s : State) : StepOutcome :=
  match configError nb fzl (opaBinary64 s.regs) (opbBinary64 s.regs) with
  | some code => .next (raiseError code s)
  | none => .next (finishNores (commitDerived nb s))

/-- The rounded quotient: steps 1 and 2 of 41_quantizer.md R117. -/
def roundedQuotient (r : Registers) (x : Binary64) : Binary64 :=
  rint (fdiv (fsub x (xminqBinary64 r)) (deltaBinary64 r))

/-- The clamped index: step 3 of 41_quantizer.md R117. -/
def clampedIndex (r : Registers) (rounded : Binary64) : Word :=
  if isnan rounded then 0
  else if flt rounded (.fin false 0) then 0
  else if fgt rounded (u2f (maxidxU64 r)) then r.maxidx
  else f2u rounded

/-- QUANT (41_quantizer.md R117, R118): `RES0` the decoded value, `RES1` the index (90_conflicts.md C9). -/
def execQuant (s : State) : StepOutcome :=
  let rounded := roundedQuotient s.regs (opaBinary64 s.regs)
  let idx := clampedIndex s.regs rounded
  .next (ifConfigured s
    (finish (toWord (value s.regs (asU64 idx))) idx 0 0 (writeQuantFlags (quantFlags rounded (maxidxU64 s.regs)) s)))

/-- DEQUANT (41_quantizer.md R122; 90_conflicts.md C3, C4). -/
def execDequant (s : State) : StepOutcome :=
  .next (ifConfigured s (finish (toWord (value s.regs (opaS64 s.regs))) 0 0 0 s))

/-- LEVEL (41_quantizer.md R125). -/
def execLevel (s : State) : StepOutcome :=
  .next (ifConfigured s
    (if maxidxU64 s.regs < opaU64 s.regs then raiseError .range s
     else finish (toWord (level s.regs (opaU64 s.regs))) 0 0 0 s))

/-- The number of thresholds, `2^NBITS - 2` as a mathematical integer (41_quantizer.md R128, R129; 90_conflicts.md C6). -/
def thresholdCount (r : Registers) : Int := 2 ^ nbitsU64 r - 2

/-- `thresholds[i] = (levels[i] + levels[i+1]) / 2` (41_quantizer.md R128). -/
def threshold (r : Registers) (i : Nat) : Binary64 := fdiv (fadd (level r i) (level r (i + 1))) two

/-- THRLD (41_quantizer.md R128). -/
def execThrld (s : State) : StepOutcome :=
  .next (ifConfigured s
    (if thresholdCount s.regs ≤ opaU64 s.regs then raiseError .range s
     else finish (toWord (threshold s.regs (opaU64 s.regs))) 0 0 0 s))

/-- ONEBIT (41_quantizer.md R131, R132): it neither needs nor reads the configuration. -/
def execOnebit (s : State) : StepOutcome :=
  .next (finish (if fgt (opaBinary64 s.regs) (threshBinary64 s.regs) then 1 else 0) 0 0 0 s)

end Sys2Proof.Machine
end

