-- ==== Sys2Proof/Machine/Dispatch.lean ====
section
/-! DEFINITION. The meaning of each command, one arm per constructor (40_common.md R90). -/

namespace Sys2Proof.Machine

def exec (i : Instr) (s : State) : Host.Outcome State Fault Refusal :=
  match i with
  | .nop => Sys2Proof.Machine.execNop s
  | .config nb fzl => Sys2Proof.Machine.execConfig nb fzl s
  | .quant => Sys2Proof.Machine.execQuant s
  | .dequant => Sys2Proof.Machine.execDequant s
  | .level => Sys2Proof.Machine.execLevel s
  | .thrld => Sys2Proof.Machine.execThrld s
  | .onebit => Sys2Proof.Machine.execOnebit s
  | .i2b w => Sys2Proof.Machine.execI2b w s
  | .b2i len => Sys2Proof.Machine.execB2i len s
  | .i2t b => Sys2Proof.Machine.execI2t b s

end Sys2Proof.Machine
end

