-- ==== Sys2Proof/Machine/Window.lean ====
section
/-! DEFINITION. The register window: offsets (10_state.md R22), which accesses are admitted (20_memory.md R53), what a read returns
and a write does (R54, R55), the byte view (R52), and what one event of the host program does (40_common.md R90;
70_reset_and_hazards.md R200, R205). -/

namespace Sys2Proof.Machine

/-- The fifteen named slots of the window, those of R22's table, where 10_state.md R21 counts sixteen registers (DEDUCED, log 20). -/
inductive Reg where
  | cmd
  | status
  | opa
  | opb
  | thresh
  | res0
  | res1
  | res2
  | res3
  | nbits
  | xmin
  | xmax
  | delta
  | xminq
  | maxidx
deriving DecidableEq, Repr

/-- Byte offset of a register from the window base (10_state.md R22). -/
def Reg.offset : Reg → Nat
  | .cmd => 0x00
  | .status => 0x08
  | .opa => 0x10
  | .opb => 0x18
  | .thresh => 0x20
  | .res0 => 0x28
  | .res1 => 0x30
  | .res2 => 0x38
  | .res3 => 0x40
  | .nbits => 0x48
  | .xmin => 0x50
  | .xmax => 0x58
  | .delta => 0x60
  | .xminq => 0x68
  | .maxidx => 0x70

/-- Every named slot. -/
def allRegs : List Reg :=
  [.cmd, .status, .opa, .opb, .thresh, .res0, .res1, .res2, .res3, .nbits, .xmin, .xmax, .delta, .xminq, .maxidx]

/-- The register at an offset; the other slots are reserved (10_state.md R22). -/
def regAt (off : Int) : Option Reg := allRegs.find? (fun g => (g.offset : Int) == off)

/-- Why an access of a width at an offset is not admitted, if it is not (20_memory.md R53). Where several reasons hold the
first is named (log 3). -/
def accessFault (off : Int) (bits : Nat) : Option Fault :=
  if bits ≠ 64 then some .busErrorWidth
  else if off % 8 ≠ 0 then some .busErrorMisaligned
  else if off < 0 ∨ (Config.window : Int) ≤ off then some .busErrorOutsideWindow
  else none

/-- What `HostRead` of a register returns (20_memory.md R55). -/
def readReg (g : Reg) (r : Registers) : Word :=
  match g with
  | .cmd => 0
  | .status => statusWord r.status
  | .opa => r.opa
  | .opb => r.opb
  | .thresh => r.thresh
  | .res0 => r.res0
  | .res1 => r.res1
  | .res2 => r.res2
  | .res3 => r.res3
  | .nbits => r.nbits
  | .xmin => r.xmin
  | .xmax => r.xmax
  | .delta => r.delta
  | .xminq => r.xminq
  | .maxidx => r.maxidx

/-- What `HostRead` of a slot returns: a reserved slot reads 0 (20_memory.md R54, R55). -/
def readSlot (off : Int) (r : Registers) : Word :=
  match regAt off with
  | some g => readReg g r
  | none => 0

/-- Byte `k` of the slot at an offset, little-endian byte lanes: a platform's byte view of the window (20_memory.md R52). -/
def windowByte (off : Int) (k : Nat) (r : Registers) : BitVec 8 := (readSlot off r).extractLsb' (8 * k) 8

/-- A write to `CMD`: `execute(decode(word))` (40_common.md R90). -/
def writeCmd (word : Word) (s : State) : StepOutcome :=
  match decode word with
  | .ok i => exec i s
  | .error _ => execIllegal s

/-- What a `HostWrite` does to the registers other than through `CMD` (20_memory.md R54, R55). -/
def writeReg (g : Option Reg) (v : Word) (r : Registers) : Registers :=
  match g with
  | some .status => r.withStatus (r.status.withHostWrite v)
  | some .opa => { r with opa := v }
  | some .opb => { r with opb := v }
  | some .thresh => { r with thresh := v }
  | _ => r

/-- What an admitted `HostWrite` does (20_memory.md R55). -/
def hostWrite (off : Int) (v : Word) (s : State) : StepOutcome :=
  match regAt off with
  | some .cmd => writeCmd v s
  | g => .next (s.withRegs (writeReg g v s.regs))

/-- What an admitted `HostRead` does: it returns the slot's value and changes no register (20_memory.md R55). -/
def hostRead (off : Int) (s : State) : StepOutcome := .next (s.recordRead (readSlot off s.regs))

/-- One access of the host: a bus error if it is not admitted (20_memory.md R53; 60_exceptions.md R188), or while reset is
asserted (70_reset_and_hazards.md R200; log 4). -/
def performAccess (a : Access) (s : State) : StepOutcome :=
  if s.inReset then .fault .busErrorInReset
  else match a with
    | .read off bits =>
      match accessFault off bits with
      | some f => .fault f
      | none => hostRead off s
    | .write off bits v =>
      match accessFault off bits with
      | some f => .fault f
      | none => hostWrite off v s

/-- One event of the host program. -/
def performEvent (e : HostEvent) (s : State) : StepOutcome :=
  match e with
  | .access a => performAccess a s
  | .resetLine asserted => .next (moveResetLine asserted s)

/-- The position advances once an event is done; a fault or a refusal ends the run (70_reset_and_hazards.md R205). -/
def thenAdvance : StepOutcome → StepOutcome
  | .next s => .next s.advance
  | .fault f => .fault f
  | .refused r => .refused r

/-- The event the host performs next: the one at the position, none once the program has ended (70_reset_and_hazards.md R205). -/
def nextEvent (s : State) : Option HostEvent := s.program[s.pos]?

/-- The offset in the window of an address of the host's address space (20_memory.md R50; log 12). -/
def offsetOfAddress (address : Nat) : Int := (address : Int) - (Config.sqleBase : Int)

/-- The write that starts the command of a word (40_common.md R90). -/
def commandEvent (word : Word) : HostEvent := .access (.write (Reg.offset .cmd) 64 word)

/-- The program with an event placed at a position, which is at most the program's length. -/
def placeEvent (program : List HostEvent) (pos : Nat) (e : HostEvent) : List HostEvent :=
  program.take pos ++ e :: program.drop (pos + 1)

/-- Place a command where the next step takes it: the write of its word to `CMD` at the position in the host program, with the
reset line released. A position beyond the program's end, which no run reaches, is brought back to it. -/
def placeCommand (word : Word) (s : State) : State :=
  { s with
    inReset := false
    pos := min s.pos s.program.length
    program := placeEvent s.program s.pos (commandEvent word) }

end Sys2Proof.Machine
end

