-- ==== Sys2Proof/Machine/Step.lean ====
section
/-! DEFINITION. One step of a run: the host performs the access at the position in its program (70_reset_and_hazards.md R205), and
where the interface places a command for the next step (log 1). -/

namespace Sys2Proof.Machine

/-- One step. Once the program has ended the block keeps its state (70_reset_and_hazards.md R205; 60_exceptions.md R196; log 2). -/
def step (s : State) : Host.Outcome State Fault Refusal :=
  match nextEvent s with
  | some e => thenAdvance (performEvent e s)
  | none => .next s

/-- The state with a command placed as the host's next access (log 1). -/
def State.withFetchWord (s : State) (nbits w : Nat) : State := placeCommand (tableWord nbits w) s

end Sys2Proof.Machine
end

