-- ==== Sys2Proof/Machine/HostProgram.lean ====
section
/-! DEFINITION. Host programs: the assembler's lines and the pseudo-instructions as the host accesses they stand for (30_encoding.md
R76, R77; 41_quantizer.md R135 to R138; 42_bitcodec.md R157 to R159), and the programs two hosts can make together
(20_memory.md R62). Nothing here is read by the step: a program reaches the machine as its list of accesses. -/

namespace Sys2Proof.Machine

/-- `HostRead(off)`, as an event of the host program (20_memory.md R53). -/
def hostReadEvent (off : Int) : HostEvent := .access (.read off 64)

/-- `HostWrite(off, v)`, as an event of the host program (20_memory.md R53). -/
def hostWriteEvent (off : Int) (v : Word) : HostEvent := .access (.write off 64 v)

/-- `RD <reg>` (30_encoding.md R76). -/
def asmRead (g : Reg) : HostEvent := hostReadEvent g.offset

/-- `WR <reg>, <imm>`: a negative decimal is its two's-complement pattern (30_encoding.md R76). -/
def asmWrite (g : Reg) (imm : Int) : HostEvent := hostWriteEvent g.offset (BitVec.ofInt 64 imm)

/-- A command mnemonic with its operands: `WR CMD, <word>` (30_encoding.md R76). The field `W` has 8 bits (R71). DESIGN CHOICE, unsafe
(log 18): a line with a larger width, which the spec does not speak of, has the width modulo 256 in its word. -/
def asmCommand (i : Instr) : HostEvent := commandEvent (encode i)

/-- A decimal literal: `digits * 10^exponent`, negated if `neg` (30_encoding.md R77). -/
structure Decimal where
  /-- the literal has a minus sign -/
  neg : Bool
  /-- its digits, as a whole number -/
  digits : Nat
  /-- the power of ten they are multiplied by -/
  exponent : Int
deriving DecidableEq, Repr

/-- The literal converted to the nearest binary64, ties to even, by the assembler (30_encoding.md R77; PRESUMED, log 8). -/
def literalBinary64 (d : Decimal) : Binary64 :=
  if 0 ≤ d.exponent then roundTo d.neg (d.digits * 10 ^ d.exponent.toNat * oneUnits) 1
  else roundTo d.neg (d.digits * oneUnits) (10 ^ (-d.exponent).toNat)

/-- `WRF <reg>, <real>` (30_encoding.md R77). -/
def asmWriteReal (g : Reg) (d : Decimal) : HostEvent := hostWriteEvent g.offset (toWord (literalBinary64 d))

/-- One line of a host program (30_encoding.md R76, R77) or a pseudo-instruction over an array or a matrix. -/
inductive AsmLine where
  | wr (g : Reg) (imm : Int)
  | rd (g : Reg)
  | command (i : Instr)
  | wrf (g : Reg) (x : Decimal)
  | setcfg (nb : Nat) (xmin xmax : Decimal)
  | quantize (x : Decimal)
  | dequantize (idx : Int)
  | clrerr
  | quantizeArray (xs : List Word)
  | dequantizeArray (idx : List Int)
  | getLevels (maxIndex : Nat)
  | getThresholds (nb : Nat)
  | intsToBitMatrix (xs : List Int) (w : Nat)
  | intsToThermoMatrix (xs : List Int) (b : Nat)
  | packBits (bits : List Bool)
deriving DecidableEq, Repr

/-- `CLRERR` (30_encoding.md R77). -/
def clearErrors : HostEvent := asmWrite .status 0x2

/-- The reads that give one row of a thermometer matrix (42_bitcodec.md R158). -/
def thermometerReads (b : Nat) : List HostEvent :=
  if b = 8 then [asmRead .res0, asmRead .res1, asmRead .res2, asmRead .res3]
  else if b = 7 then [asmRead .res0, asmRead .res1]
  else [asmRead .res0]

/-- One element of `QUANTIZE_ARRAY` (41_quantizer.md R135). -/
def quantizeElement (x : Word) : List HostEvent :=
  [hostWriteEvent (Reg.offset .opa) x, asmCommand .quant, asmRead .res0, asmRead .res1]

/-- One element of `DEQUANTIZE_ARRAY` (41_quantizer.md R136), which is `DEQUANTIZE <i>` (30_encoding.md R77). -/
def dequantizeElement (idx : Int) : List HostEvent := [asmWrite .opa idx, asmCommand .dequant, asmRead .res0]

/-- A command on a position, then the read of its result: one entry of `GET_LEVELS` or `GET_THRESHOLDS` (41_quantizer.md R137,
R138). -/
def readEntry (i : Instr) (position : Nat) : List HostEvent := [asmWrite .opa position, asmCommand i, asmRead .res0]

/-- The vector a host packs: `v` is the sum of `e[j] << (L-1-j)` (42_bitcodec.md R159; 10_state.md R31), for a list of any length. R159
gives it for `L <= 64` only, where it fits `OPA`; what a longer list does is the model's choice, made in `packBitsAccesses`. -/
def packVector (bits : List Bool) : Nat := bits.foldl (fun v e => 2 * v + e.toNat) 0

/-- `PACK_BITS e[0..L-1]` (42_bitcodec.md R159, for `L <= 64`). DESIGN CHOICE, unsafe (log 18): R159 says nothing of a longer list. The
model expands it by the same three lines, `OPA` gets the vector modulo 2^64, and the word gets `W = L mod 256`. So a length from 65
to 255 ends with `BAD_WIDTH`, and a length of 256 or more runs as `B2I` of its remainder (256 as `B2I 0`, which answers 0 and reports
no error). -/
def packBitsAccesses (bits : List Bool) : List HostEvent :=
  [asmWrite .opa (packVector bits), asmCommand (.b2i bits.length), asmRead .res0]

/-- The accesses a line stands for. A width above 255 or an integer beyond 64 bits in any line is truncated to its field (DESIGN CHOICE,
logs 16 and 18). -/
def expandLine : AsmLine → List HostEvent
  | .wr g imm => [asmWrite g imm]
  | .rd g => [asmRead g]
  | .command i => [asmCommand i]
  | .wrf g x => [asmWriteReal g x]
  | .setcfg nb xmin xmax => [asmWriteReal .opa xmin, asmWriteReal .opb xmax, asmCommand (.config nb false)]
  | .quantize x => [asmWriteReal .opa x, asmCommand .quant, asmRead .res0, asmRead .res1]
  | .dequantize idx => dequantizeElement idx
  | .clrerr => [clearErrors]
  | .quantizeArray xs => xs.flatMap quantizeElement
  | .dequantizeArray idx => idx.flatMap dequantizeElement
  | .getLevels maxIndex => (List.range (maxIndex + 1)).flatMap (readEntry .level)
  | .getThresholds nb => (List.range (2 ^ nb - 2)).flatMap (readEntry .thrld)
  | .intsToBitMatrix xs w =>
    clearErrors :: xs.flatMap (fun x => [asmWrite .opa x, asmCommand (.i2b w), asmRead .res0]) ++ [asmRead .status]
  | .intsToThermoMatrix xs b =>
    clearErrors :: xs.flatMap (fun x => [asmWrite .opa x, asmCommand (.i2t b)] ++ thermometerReads b) ++ [asmRead .status]
  | .packBits bits => packBitsAccesses bits

/-- The host program of a listing, one line after another (30_encoding.md R76). -/
def assemble (lines : List AsmLine) : List HostEvent := lines.flatMap expandLine

/-- Two hosts on one SQLE: `Interleaves p q m` says that `m` merges their two access lists in some order, each host's own order
kept. "Every interleaving of the two access lists is a run" (20_memory.md R62; log 11). -/
inductive Interleaves : List HostEvent → List HostEvent → List HostEvent → Prop where
  | done : Interleaves [] [] []
  | first (e : HostEvent) (p q m : List HostEvent) : Interleaves p q m → Interleaves (e :: p) q (e :: m)
  | second (e : HostEvent) (p q m : List HostEvent) : Interleaves p q m → Interleaves p (e :: q) (e :: m)

/-- A program that two hosts with the given access lists can make together. -/
def isMergeOf (p q : List HostEvent) (s : State) : Prop := Interleaves p q s.program

end Sys2Proof.Machine
end

