-- ==== Sys2Proof/Safety.lean ====
section
/-! DEFINITION. The terms that statements use: the state's invariant (10_state.md R35), admitted accesses and runs (20_memory.md R53;
70_reset_and_hazards.md R205), how a claim reads each error code in the source's terms (60_exceptions.md R189), and
the order of the numbers (00_scope.md R10). -/

namespace Sys2Proof.Machine

/-- A configuration passes every check of CONFIG (41_quantizer.md R113). -/
abbrev ValidConfig (nb : Nat) (xmin xmax : Binary64) : Prop := configError nb false xmin xmax = none

/-- The unconfigured registers: the six configuration registers hold their reset value 0 (10_state.md R35). -/
abbrev Unconfigured (r : Registers) : Prop :=
  r.nbits = 0 ∧ r.xmin = 0 ∧ r.xmax = 0 ∧ r.delta = 0 ∧ r.xminq = 0 ∧ r.maxidx = 0

/-- The configured registers: a valid configuration, and the derived registers are what 41_quantizer.md R111 computes from it
(10_state.md R28, R29, R35). -/
abbrev Configured (r : Registers) : Prop :=
  ValidConfig (nbitsU64 r) (ofWord r.xmin) (ofWord r.xmax) ∧
  maxidxU64 r = 2 ^ nbitsU64 r - 1 ∧
  r.delta = toWord (deltaOf (nbitsU64 r) (ofWord r.xmin) (ofWord r.xmax)) ∧
  r.xminq = toWord (xminqOf (ofWord r.xmin) (deltaBinary64 r))

/-- The invariant of 10_state.md R35 on the registers. -/
abbrev ConfigInvariant (r : Registers) : Prop :=
  (r.status.cfgValid = false → Unconfigured r) ∧ (r.status.cfgValid = true → Configured r)

/-- The invariant of the machine: 10_state.md R35 holds "at every point between commands". While reset is asserted the spec says
nothing of the registers (70_reset_and_hazards.md R205; log 5). -/
abbrev State.Inv (s : State) : Prop := s.inReset = false → ConfigInvariant s.regs

/-- An access that the block admits (20_memory.md R53). -/
def admittedEvent : HostEvent → Bool
  | .access (.read off bits) => (accessFault off bits).isNone
  | .access (.write off bits _) => (accessFault off bits).isNone
  | .resetLine _ => false

/-- A host program is a list of admitted accesses (70_reset_and_hazards.md R205). -/
def isHostProgram (program : List HostEvent) : Bool := program.all admittedEvent

/-- The run has ended: its last access is done (70_reset_and_hazards.md R205). -/
def runEnded (s : State) : Bool := decide (s.program.length ≤ s.pos)

/-- The program's events from the position on. -/
def remaining (s : State) : List HostEvent := s.program.drop s.pos

/-- How a claim that relates SQLE to the source's software reads the end of a command. 60_exceptions.md R189 sorts the six errors; the
model adds no reading of its own (log 19). -/
inductive SourceReading where
  /-- not an error: the command succeeded. R189 does not name code 0 (log 19). -/
  | success
  /-- the source's own defined outcome, which a claim may take as such (R189) -/
  | sourceOutcome
  /-- an outcome of SQLE that the spec chose where the source has no such input (R189; 91_not_in_source.md N6). Whether a claim may
  give it any meaning in the source's terms the spec leaves open, and so does the model: DESIGN CHOICE, a class of its own (log 19). -/
  | noSourceInput
  /-- the source's behaviour is assumed away or undefined there: a claim must treat a run that reaches it as a fault (R189;
  93_implementation_defined.md I1, I3) -/
  | sourceFault
deriving DecidableEq, Repr

/-- The reading of each error code (60_exceptions.md R189; log 19). -/
def sourceReading : ErrorCode → SourceReading
  | .noError => .success
  | .unsupported => .sourceOutcome
  | .notConfigured => .noSourceInput
  | .badWidth => .noSourceInput
  | .illegal => .noSourceInput
  | .badConfig => .sourceFault
  | .range => .sourceFault

/-- The state after an error end: `ERR_CODE` and `ERR_STICKY` and nothing else (40_common.md R93), written out for statements. -/
def afterError (code : ErrorCode) (s : State) : State :=
  { s with regs := { s.regs with status := { s.regs.status with errCode := code, errSticky := true } } }

/-- The state after a successful end that writes no result (40_common.md R92), written out for statements. -/
def afterNoResult (s : State) : State :=
  { s with regs := { s.regs with status := { s.regs.status with errCode := .noError } } }

/-- The state after a successful end with four result words (40_common.md R92), written out for statements. -/
def afterResult (r0 r1 r2 r3 : Word) (s : State) : State :=
  { s with
    regs := { s.regs with
      res0 := r0, res1 := r1, res2 := r2, res3 := r3
      status := { s.regs.status with errCode := .noError } } }

/-- The state after a successful QUANT that answers an index with three flags: `RES0 = idx*delta + xmin_q`, `RES1 = idx`
(41_quantizer.md R117 step 4, R118), written out for statements. -/
def afterQuant (idx : Word) (lo hi nan : Bool) (s : State) : State :=
  { s with
    regs := { s.regs with
      res0 := toWord (fadd (fmul (i2f idx.toNat) (ofWord s.regs.delta)) (ofWord s.regs.xminq))
      res1 := idx, res2 := 0, res3 := 0
      status := { s.regs.status with satLo := lo, satHi := hi, nanIn := nan, errCode := .noError } } }

/-- The state after a successful CONFIG that commits the six registers given (41_quantizer.md R114), written out for statements. -/
def afterConfig (nbits xmin xmax delta xminq maxidx : Word) (s : State) : State :=
  { s with
    regs := { s.regs with
      nbits := nbits, xmin := xmin, xmax := xmax, delta := delta, xminq := xminq, maxidx := maxidx
      status := { s.regs.status with cfgValid := true, errCode := .noError } } }

/-- The four result words. -/
def results (r : Registers) : Word × Word × Word × Word := (r.res0, r.res1, r.res2, r.res3)

/-- Two register sets agree on everything a command may read: `STATUS`, `OPA`, `OPB`, `THRESH` and the configuration registers
(40_common.md R95). -/
def sameInputs (r1 r2 : Registers) : Prop := r1.withResults 0 0 0 0 = r2.withResults 0 0 0 0

/-- The six configuration registers. -/
def configuration (r : Registers) : List Word := [r.nbits, r.xmin, r.xmax, r.delta, r.xminq, r.maxidx]

/-- One of the four conditions of 41_quantizer.md R113 holds. -/
abbrev BadConfiguration (nb : Nat) (xmin xmax : Binary64) : Prop :=
  (nb < 1 ∨ 32 < nb) ∨
  (isfinite xmin = false ∨ isfinite xmax = false) ∨
  flt xmin xmax = false ∨
  (isfinite (fdiv (fabs (fsub xmax xmin)) (u2f (2 ^ nb))) = false ∨ isZero (fdiv (fabs (fsub xmax xmin)) (u2f (2 ^ nb))) = true)

/-- The error a command reports, the first that applies in the order of 60_exceptions.md R184 (the causes are R180's). -/
def firstError : Instr → Registers → ErrorCode
  | .nop, _ => .noError
  | .config nb fzl, r =>
    if fzl then .unsupported
    else if BadConfiguration nb (ofWord r.opa) (ofWord r.opb) then .badConfig
    else .noError
  | .quant, r => if r.status.cfgValid then .noError else .notConfigured
  | .dequant, r => if r.status.cfgValid then .noError else .notConfigured
  | .level, r =>
    if r.status.cfgValid = false then .notConfigured
    else if r.maxidx.toNat < r.opa.toNat then .range
    else .noError
  | .thrld, r =>
    if r.status.cfgValid = false then .notConfigured
    else if (2 ^ r.nbits.toNat - 2 : Int) ≤ r.opa.toNat then .range
    else .noError
  | .onebit, _ => .noError
  | .i2b w, _ => if 64 < w then .badWidth else .noError
  | .b2i len, _ => if 64 < len then .badWidth else .noError
  | .i2t b, r =>
    if 8 < b then .badWidth
    else if r.opa.toInt < 0 ∨ (2 ^ b : Int) < r.opa.toInt then .range
    else .noError

/-- The next access of the host is a write of a word to `CMD`, and the block is not held in reset. -/
abbrev CommandArrives (s : State) (word : Word) : Prop :=
  s.inReset = false ∧ nextEvent s = some (.access (.write 0x00 64 word))

/-- An admitted read of an offset by the next step returns a value and changes no register (20_memory.md R55). -/
def ReadReturns (s : State) (off : Int) (v : Word) : Prop :=
  nextEvent s = some (.access (.read off 64)) →
    step s = .next { s with readValues := s.readValues ++ [v], pos := s.pos + 1 }

/-- An admitted write of a value to an offset by the next step leaves the registers given (20_memory.md R55). -/
def WriteLeaves (s : State) (off : Int) (v : Word) (r : Registers) : Prop :=
  nextEvent s = some (.access (.write off 64 v)) → step s = .next { s with regs := r, pos := s.pos + 1 }

/-- The pair a QUANT of `x` answers: decoded value and index (41_quantizer.md R117, R135). -/
def quantPair (r : Registers) (x : Word) : List Word :=
  let idx := clampedIndex r (roundedQuotient r (ofWord x))
  [toWord (value r (asU64 idx)), idx]

/-- A magnitude that some binary64, of any exponent, has: 53 significant bits from its leading one down, or from the subnormal
step (00_scope.md R6). -/
abbrev Representable (units : Nat) : Prop := units / 2 ^ stepShift units * 2 ^ stepShift units = units

/-- How far a magnitude lies from the exact value `num / den`, times `den`. -/
def distanceFrom (num den units : Nat) : Nat := ((units * den : Int) - num).natAbs

/-- Where a number stands in the order of the numbers: minus infinity, the finite numbers in units of 2^-1074, plus infinity. A NaN
stands nowhere in it (00_scope.md R10). -/
def orderPlace : Binary64 → Option (WithBot (WithTop Int))
  | .nan _ => none
  | .inf true => some ⊥
  | .inf false => some ⊤
  | .fin neg units => some ((if neg then -(units : Int) else units : Int) : WithTop Int)

end Sys2Proof.Machine
end

