-- ==== Sys2Proof/Certificates/Slice0/Obligations.lean ====
section
/-! DEFINITION. The statements for the provers. Each docstring names the rules of spec/ it formalises. -/

open Sys2Proof Sys2Proof.Machine

/-! ### Encoding -/

/-- Decoding the encoding of any well-formed command gives the command back (30_encoding.md R70, R71, R73, R74). -/
def Obligations.DecodeOfEncodeIsTheCommand : Prop :=
  ∀ i : Instr, i.wellFormed = true → decode (encode i) = .ok i

/-- A word that decodes is the encoding of the command it decodes to, which is well-formed: no bit of a word is dropped
(30_encoding.md R70, R71, R74). -/
def Obligations.EncodeOfDecodeIsTheWord : Prop :=
  ∀ (word : Word) (i : Instr), decode word = .ok i → i.wellFormed = true ∧ encode i = word

/-- A word spells the command of a table row exactly when its masked bits match, the rows are disjoint, and a word that matches no
row is illegal (30_encoding.md R74, second paragraph). -/
def Obligations.OpcodeTableSpellsTheDecodedCommand : Prop :=
  (∀ word : Word, ∀ r ∈ opcodeTable, r.spells word = true ↔ ∃ i, decode word = .ok i ∧ i.mnemonic = r.mnemonic) ∧
  opcodeTable.Pairwise (fun r r' => ∀ word : Word, ¬ (r.spells word = true ∧ r'.spells word = true)) ∧
  (∀ word : Word, (∀ r ∈ opcodeTable, r.spells word = false) ↔ ∃ e, decode word = .error e)

/-- Exactly the words 30_encoding.md R75 lists are illegal, and each of them, written to `CMD`, ends with the error `ILLEGAL` and
has no other effect. -/
def Obligations.ReservedWordsAreIllegal : Prop :=
  (∀ word : Word, (∃ e, decode word = .error e) ↔
    rsvField word ≠ 0 ∨
    ((0x07 ≤ opField word ∧ opField word ≤ 0x0F) ∨ 0x13 ≤ opField word) ∨
    ((opField word = 0x00 ∨ (0x02 ≤ opField word ∧ opField word ≤ 0x06)) ∧ widthField word ≠ 0) ∨
    (opField word ≠ 0x01 ∧ fzlField word = true)) ∧
  (∀ (word : Word) (s : State), (∃ e, decode word = .error e) → writeCmd word s = .next (afterError .illegal s))

/-- The words of 30_encoding.md R78 decode to the commands it names, and those commands encode to them. -/
def Obligations.ReferenceWordsDecode : Prop :=
  ∀ p ∈ ([(0x0000000000000000#64, .nop), (0x0000000000000301#64, .config 3 false), (0x0000000000010301#64, .config 3 true),
      (0x0000000000000801#64, .config 8 false), (0x0000000000000002#64, .quant), (0x0000000000000003#64, .dequant),
      (0x0000000000000004#64, .level), (0x0000000000000005#64, .thrld), (0x0000000000000006#64, .onebit),
      (0x0000000000000310#64, .i2b 3), (0x0000000000004010#64, .i2b 64), (0x0000000000000311#64, .b2i 3),
      (0x0000000000000312#64, .i2t 3), (0x0000000000000812#64, .i2t 8)] : List (Word × Instr)),
    (decode p.1).toOption = some p.2 ∧ encode p.2 = p.1

/-! ### Steps and accesses -/

/-- A write to `CMD` is one step that executes the decoded command and then advances the host's position; an illegal word executes
as `ILLEGAL` (40_common.md R90). -/
def Obligations.StepRunsTheDecodedCommand : Prop :=
  ∀ (s : State) (word : Word), CommandArrives s word →
    (∀ i, decode word = .ok i → step s = thenAdvance (exec i s)) ∧
    (∀ i t, decode word = .ok i → exec i s = .next t → step s = .next { t with pos := t.pos + 1 }) ∧
    (∀ e, decode word = .error e → step s = .next { afterError .illegal s with pos := s.pos + 1 })

/-- ILLEGAL: a word that decodes as illegal writes `ERR_CODE <- 6` and `ERR_STICKY <- 1` and changes nothing else, configured or
not (40_common.md R97). -/
def Obligations.IllegalOnlyRecordsTheError : Prop :=
  (∀ s : State, execIllegal s =
    .next { s with regs := { s.regs with status := { s.regs.status with errCode := .illegal, errSticky := true } } }) ∧
  errorNumber .illegal = 6 ∧
  (∀ (s : State) (word : Word), CommandArrives s word → (decode word).toOption = none →
    ∃ t, execIllegal s = .next t ∧ step s = .next { t with pos := s.pos + 1 }) ∧
  (∀ s : State, s.regs = Registers.reset → ∃ t, execIllegal s = .next t ∧ statusWord t.regs.status = 0x602#64 ∧
    ∀ g : Reg, g ≠ .status → readReg g t.regs = readReg g Registers.reset)

/-- Only 64-bit accesses at a multiple of 8 inside the window are admitted. Any other is a bus error: the run faults there, no
command is performed and nothing is recorded (20_memory.md R53; 60_exceptions.md R188). -/
def Obligations.OnlyAdmittedAccessesRun : Prop :=
  ∀ (s : State) (off : Int) (bits : Nat) (v : Word), s.inReset = false →
    (nextEvent s = some (.access (.read off bits)) ∨ nextEvent s = some (.access (.write off bits v))) →
    ((bits = 64 ∧ off % 8 = 0 ∧ 0 ≤ off ∧ off ≤ 0xF8) → ∃ t, step s = .next t) ∧
    (¬ (bits = 64 ∧ off % 8 = 0 ∧ 0 ≤ off ∧ off ≤ 0xF8) → ∃ f, step s = .fault f)

/-- No step refuses, and a step faults exactly on a not-admitted access or on an access while reset is asserted (20_memory.md R53;
60_exceptions.md R188; 70_reset_and_hazards.md R200). That an access during reset is a bus error is the model's inference from
R200's "no host access is admitted" (DEDUCED, log 4). -/
def Obligations.StepFaultsOnlyOnABusError : Prop :=
  ∀ s : State,
    (∀ r, step s ≠ .refused r) ∧
    ((∃ f, step s = .fault f) ↔
      ∃ a, nextEvent s = some (.access a) ∧ (s.inReset = true ∨ admittedEvent (.access a) = false))

/-- What an admitted access does, slot by slot: the table of 20_memory.md R55, and the reserved slots of R54. -/
def Obligations.HostAccessesHaveTheTableEffects : Prop :=
  ∀ (s : State) (v : Word), s.inReset = false →
    (ReadReturns s 0x00 0 ∧ ReadReturns s 0x08 (statusWord s.regs.status) ∧ ReadReturns s 0x10 s.regs.opa ∧
      ReadReturns s 0x18 s.regs.opb ∧ ReadReturns s 0x20 s.regs.thresh ∧ ReadReturns s 0x28 s.regs.res0 ∧
      ReadReturns s 0x30 s.regs.res1 ∧ ReadReturns s 0x38 s.regs.res2 ∧ ReadReturns s 0x40 s.regs.res3 ∧
      ReadReturns s 0x48 s.regs.nbits ∧ ReadReturns s 0x50 s.regs.xmin ∧ ReadReturns s 0x58 s.regs.xmax ∧
      ReadReturns s 0x60 s.regs.delta ∧ ReadReturns s 0x68 s.regs.xminq ∧ ReadReturns s 0x70 s.regs.maxidx) ∧
    (nextEvent s = some (.access (.write 0x00 64 v)) → step s = thenAdvance (writeCmd v s)) ∧
    WriteLeaves s 0x08 v { s.regs with status := { s.regs.status with errSticky := s.regs.status.errSticky && !v.getLsbD 1 } } ∧
    (WriteLeaves s 0x10 v { s.regs with opa := v } ∧ WriteLeaves s 0x18 v { s.regs with opb := v } ∧
      WriteLeaves s 0x20 v { s.regs with thresh := v }) ∧
    (∀ off ∈ ([0x28, 0x30, 0x38, 0x40, 0x48, 0x50, 0x58, 0x60, 0x68, 0x70] : List Int), WriteLeaves s off v s.regs) ∧
    (∀ off : Int, 0x78 ≤ off → off ≤ 0xF8 → off % 8 = 0 → ReadReturns s off 0 ∧ WriteLeaves s off v s.regs)

/-- A read of a register right after a write to it, with no wait between, returns the value written (20_memory.md R57; 10_state.md
R25, R26). -/
def Obligations.ReadAfterWriteReturnsTheValue : Prop :=
  ∀ (s : State) (v : Word) (g : Reg), s.inReset = false → (g = .opa ∨ g = .opb ∨ g = .thresh) →
    s.program[s.pos]? = some (hostWriteEvent g.offset v) → s.program[s.pos + 1]? = some (hostReadEvent g.offset) →
    ∃ t u, step s = .next t ∧ step t = .next u ∧ u.readValues = s.readValues ++ [v] ∧ u.regs = t.regs

/-- Where each field of `STATUS` stands in the word a read returns, that every other bit of it is 0 (10_state.md R24), and the number
that stands in `ERR_CODE` for each code (60_exceptions.md R180). -/
def Obligations.StatusFieldsStandAtTheirBits : Prop :=
  (errorNumber .noError = 0 ∧ errorNumber .unsupported = 1 ∧ errorNumber .badConfig = 2 ∧ errorNumber .notConfigured = 3 ∧
    errorNumber .range = 4 ∧ errorNumber .badWidth = 5 ∧ errorNumber .illegal = 6) ∧
  ∀ st : Status,
    (statusWord st).getLsbD 0 = st.cfgValid ∧ (statusWord st).getLsbD 1 = st.errSticky ∧
    (statusWord st).getLsbD 2 = st.satLo ∧ (statusWord st).getLsbD 3 = st.satHi ∧ (statusWord st).getLsbD 4 = st.nanIn ∧
    ((statusWord st).extractLsb' 8 4).toNat = errorNumber st.errCode ∧
    (∀ b, (5 ≤ b ∧ b ≤ 7) ∨ 12 ≤ b → (statusWord st).getLsbD b = false)

/-- The byte view of the window is little-endian: byte `k` of a slot is bits `8k+7` down to `8k` of the register there
(20_memory.md R52). -/
def Obligations.WindowBytesAreLittleEndian : Prop :=
  ∀ (off : Int) (r : Registers),
    (∀ k b : Nat, k ≤ 7 → b ≤ 7 → (windowByte off k r).getLsbD b = (readSlot off r).getLsbD (8 * k + b)) ∧
    (readSlot off r).toNat = ((List.range 8).map (fun k => (windowByte off k r).toNat * 256 ^ k)).sum

/-! ### The commands -/

/-- NOP sets `ERR_CODE` to 0 and changes nothing else; its only word is 0 (40_common.md R96). -/
def Obligations.NopOnlyClearsTheErrorCode : Prop :=
  (∀ s : State, exec .nop s =
    .next { s with regs := { s.regs with status := { s.regs.status with errCode := .noError } } }) ∧
  (∀ word : Word, decode word = .ok .nop ↔ word = 0x0000000000000000#64) ∧
  (∀ s : State, s.regs.status.errCode = .illegal → s.regs.status.errSticky = true →
    ∃ t, exec .nop s = .next t ∧ t.regs.status.errCode = .noError ∧ t.regs.status.errSticky = true)

/-- CONFIG without `force_zero_level`, of a configuration that meets none of the conditions of 41_quantizer.md R113, commits the six
registers that R111 and R114 give, sets `CFG_VALID` and `ERR_CODE = 0`, and changes nothing else. -/
def Obligations.ConfigCommitsAValidConfiguration : Prop :=
  ∀ (nb : Nat) (s : State), ¬ BadConfiguration nb (ofWord s.regs.opa) (ofWord s.regs.opb) →
    exec (.config nb false) s = .next
      { s with
        regs := { s.regs with
          nbits := BitVec.ofNat 64 nb
          xmin := s.regs.opa
          xmax := s.regs.opb
          delta := toWord (fdiv (fabs (fsub (ofWord s.regs.opb) (ofWord s.regs.opa))) (u2f (2 ^ nb)))
          xminq := toWord (fadd
            (fadd (ofWord s.regs.opa) (fdiv (fdiv (fabs (fsub (ofWord s.regs.opb) (ofWord s.regs.opa))) (u2f (2 ^ nb))) two))
            (fmul (u2f 0) (fdiv (fabs (fsub (ofWord s.regs.opb) (ofWord s.regs.opa))) (u2f (2 ^ nb)))))
          maxidx := BitVec.ofNat 64 (2 ^ nb - 1)
          status := { s.regs.status with cfgValid := true, errCode := .noError } } }

/-- CONFIG with `force_zero_level` is rejected with `UNSUPPORTED` for any `num_bits`, `xmin`, `xmax`, and commits nothing
(41_quantizer.md R112). -/
def Obligations.ForceZeroLevelIsUnsupported : Prop :=
  ∀ (nb : Nat) (s : State), exec (.config nb true) s = .next (afterError .unsupported s)

/-- CONFIG raises `BAD_CONFIG` and commits nothing if any of the four conditions of 41_quantizer.md R113 holds. -/
def Obligations.InvalidConfigurationIsRejected : Prop :=
  ∀ (nb : Nat) (s : State), BadConfiguration nb (ofWord s.regs.opa) (ofWord s.regs.opb) →
    exec (.config nb false) s = .next (afterError .badConfig s)

/-- QUANT, DEQUANT, LEVEL and THRLD without a configuration report `NOT_CONFIGURED` before any other check; no other command ever
reports it (40_common.md R94). -/
def Obligations.QuantizerCommandsNeedAConfiguration : Prop :=
  (∀ (i : Instr) (s : State), i = .quant ∨ i = .dequant ∨ i = .level ∨ i = .thrld → s.regs.status.cfgValid = false →
    exec i s = .next (afterError .notConfigured s)) ∧
  (∀ (i : Instr) (s t : State), ¬ (i = .quant ∨ i = .dequant ∨ i = .level ∨ i = .thrld) → exec i s = .next t →
    t.regs.status.errCode ≠ .notConfigured)

/-- QUANT on a configured state: the four cases of the quantize steps, with the index, the decoded value and the flags each gives,
and nothing else changed (41_quantizer.md R117, R118, R119). -/
def Obligations.QuantClampsTheRoundedQuotient : Prop :=
  ∀ s : State, s.regs.status.cfgValid = true →
    let rounded := rint (fdiv (fsub (ofWord s.regs.opa) (ofWord s.regs.xminq)) (ofWord s.regs.delta))
    (isnan rounded = true → exec .quant s = .next (afterQuant 0 false false true s)) ∧
    (isnan rounded = false → flt rounded (.fin false 0) = true → exec .quant s = .next (afterQuant 0 true false false s)) ∧
    (isnan rounded = false → flt rounded (.fin false 0) = false → fgt rounded (u2f s.regs.maxidx.toNat) = true →
      exec .quant s = .next (afterQuant s.regs.maxidx false true false s)) ∧
    (isnan rounded = false → flt rounded (.fin false 0) = false → fgt rounded (u2f s.regs.maxidx.toNat) = false →
      exec .quant s = .next (afterQuant (f2u rounded) false false false s))

/-- In a configured state that meets the invariant: `+inf` gives `max_index` with `SAT_HI`, `-inf` gives 0 with `SAT_LO`, a NaN
gives 0 with `NAN_IN`, the lowest level gives itself with no flag, and `NAN_IN` is set by nothing but a NaN (41_quantizer.md
R117, R118, R119). -/
def Obligations.QuantSaturatesInfinitiesAndNan : Prop :=
  ∀ s : State, ConfigInvariant s.regs → s.regs.status.cfgValid = true →
    (ofWord s.regs.opa = .inf false → exec .quant s = .next (afterQuant s.regs.maxidx false true false s)) ∧
    (ofWord s.regs.opa = .inf true → exec .quant s = .next (afterQuant 0 true false false s)) ∧
    (isnan (ofWord s.regs.opa) = true → exec .quant s = .next (afterQuant 0 false false true s)) ∧
    (s.regs.opa = s.regs.xminq →
      ∃ t, exec .quant s = .next t ∧ t = afterQuant 0 false false false s ∧ t.regs.res0 = s.regs.xminq) ∧
    (isnan (ofWord s.regs.opa) = false → ∃ t, exec .quant s = .next t ∧ t.regs.status.nanIn = false)

/-- After every successful QUANT from a state that meets the invariant, `0 <= RES1 <= MAXIDX` and `RES0 = level(RES1)` bit for bit
(41_quantizer.md R120). -/
def Obligations.QuantAnswersALevelOfTheTable : Prop :=
  ∀ s : State, ConfigInvariant s.regs → s.regs.status.cfgValid = true →
    ∃ t, exec .quant s = .next t ∧ t.regs.res1.toNat ≤ s.regs.maxidx.toNat ∧
      t.regs.res0 = toWord (fadd (ofWord s.regs.xminq) (fmul (u2f t.regs.res1.toNat) (ofWord s.regs.delta)))

/-- DEQUANT on a configured state computes `idx*delta + xmin_q` for every signed index, without a bounds check (41_quantizer.md
R122). -/
def Obligations.DequantComputesTheFormula : Prop :=
  ∀ s : State, s.regs.status.cfgValid = true →
    exec .dequant s = .next (afterResult
      (toWord (fadd (fmul (i2f s.regs.opa.toInt) (ofWord s.regs.delta)) (ofWord s.regs.xminq))) 0 0 0 s)

/-- DEQUANT's result is never a NaN, in a configured state that meets the invariant (41_quantizer.md R122). -/
def Obligations.DequantIsNeverNan : Prop :=
  ∀ s : State, ConfigInvariant s.regs → s.regs.status.cfgValid = true →
    ∃ t, exec .dequant s = .next t ∧ isnan (ofWord t.regs.res0) = false

/-- LEVEL on a configured state answers the level at an in-range position and reports `RANGE` at any other (41_quantizer.md
R125). -/
def Obligations.LevelReadsOneEntry : Prop :=
  ∀ s : State, s.regs.status.cfgValid = true →
    (s.regs.opa.toNat ≤ s.regs.maxidx.toNat → exec .level s = .next (afterResult
      (toWord (fadd (ofWord s.regs.xminq) (fmul (u2f s.regs.opa.toNat) (ofWord s.regs.delta)))) 0 0 0 s)) ∧
    (s.regs.maxidx.toNat < s.regs.opa.toNat → exec .level s = .next (afterError .range s))

/-- LEVEL and DEQUANT agree, in their whole effect, on every in-range index of a configured state that meets the invariant
(41_quantizer.md R111, R125). -/
def Obligations.LevelAndDequantAgree : Prop :=
  ∀ s : State, ConfigInvariant s.regs → s.regs.status.cfgValid = true → s.regs.opa.toNat ≤ s.regs.maxidx.toNat →
    ∃ t, exec .level s = .next t ∧ exec .dequant s = .next t

/-- THRLD on a configured state answers the threshold at a position below `2^NBITS - 2` and reports `RANGE` at any other, so always
with one bit (41_quantizer.md R128, R129). -/
def Obligations.ThrldReadsOneThreshold : Prop :=
  ∀ s : State, s.regs.status.cfgValid = true →
    (s.regs.opa.toNat + 2 < 2 ^ s.regs.nbits.toNat → exec .thrld s = .next (afterResult
      (toWord (fdiv (fadd
        (fadd (ofWord s.regs.xminq) (fmul (u2f s.regs.opa.toNat) (ofWord s.regs.delta)))
        (fadd (ofWord s.regs.xminq) (fmul (u2f (s.regs.opa.toNat + 1)) (ofWord s.regs.delta)))) two)) 0 0 0 s)) ∧
    (2 ^ s.regs.nbits.toNat ≤ s.regs.opa.toNat + 2 → exec .thrld s = .next (afterError .range s)) ∧
    (s.regs.nbits = 1 → exec .thrld s = .next (afterError .range s))

/-- ONEBIT, configured or not, answers 1 exactly when `x > threshold`, strictly and quietly, and 0 otherwise (41_quantizer.md R131,
R132). -/
def Obligations.OnebitComparesStrictly : Prop :=
  ∀ s : State,
    (fgt (ofWord s.regs.opa) (ofWord s.regs.thresh) = true → exec .onebit s = .next (afterResult 1 0 0 0 s)) ∧
    (fgt (ofWord s.regs.opa) (ofWord s.regs.thresh) = false → exec .onebit s = .next (afterResult 0 0 0 0 s)) ∧
    (s.regs.opa = s.regs.thresh ∨ isnan (ofWord s.regs.opa) = true ∨ isnan (ofWord s.regs.thresh) = true →
      exec .onebit s = .next (afterResult 0 0 0 0 s))

/-- I2B keeps the low `w` bits of `OPA` for every width up to 64, and reports `BAD_WIDTH` above (42_bitcodec.md R150). -/
def Obligations.I2bKeepsTheLowBits : Prop :=
  ∀ (w : Nat) (s : State),
    (w ≤ 64 → exec (.i2b w) s = .next (afterResult (s.regs.opa &&& BitVec.ofNat 64 (mask w)) 0 0 0 s)) ∧
    (64 < w → exec (.i2b w) s = .next (afterError .badWidth s))

/-- I2B's vector is most significant bit first: element `w-1-i` is bit `i` of the signed integer in `OPA` (42_bitcodec.md R150;
10_state.md R31). -/
def Obligations.I2bVectorIsMsbFirst : Prop :=
  ∀ (w : Nat) (s : State), w ≤ 64 →
    ∃ t, exec (.i2b w) s = .next t ∧
      ∀ i < w, (vectorOf w t.regs.res0.toNat)[w - 1 - i]? = some (decide (s.regs.opa.toInt / 2 ^ i % 2 = 1))

/-- B2I reads the low `len` bits of `OPA` as an unsigned integer for every length up to 64, and reports `BAD_WIDTH` above
(42_bitcodec.md R152). -/
def Obligations.B2iReadsTheLowBits : Prop :=
  ∀ (len : Nat) (s : State),
    (len ≤ 64 → exec (.b2i len) s = .next (afterResult (s.regs.opa &&& BitVec.ofNat 64 (mask len)) 0 0 0 s)) ∧
    (64 < len → exec (.b2i len) s = .next (afterError .badWidth s))

/-- I2B and then B2I of its result, with the same width: `as_u64(n) mod 2^w` for every `n`, so `n` itself when `0 <= n < 2^w`
(42_bitcodec.md R153). -/
def Obligations.BitCodecRoundTrip : Prop :=
  ∀ (w : Nat) (s : State), w ≤ 64 →
    ∃ t u, exec (.i2b w) s = .next t ∧ exec (.b2i w) { t with regs := { t.regs with opa := t.regs.res0 } } = .next u ∧
      u.regs.res0.toNat = s.regs.opa.toNat % 2 ^ w ∧
      (0 ≤ s.regs.opa.toInt → s.regs.opa.toInt < 2 ^ w → u.regs.res0 = s.regs.opa)

/-- I2T puts the field `2^L - 2^(L-k)`, `L = 2^b`, into the four result words for `b <= 8` and `0 <= k <= L`, and reports
`BAD_WIDTH` or `RANGE` otherwise (42_bitcodec.md R154). -/
def Obligations.I2tBuildsTheThermometerField : Prop :=
  ∀ (b : Nat) (s : State),
    (b ≤ 8 → 0 ≤ s.regs.opa.toInt → s.regs.opa.toInt ≤ 2 ^ b →
      let field := 2 ^ (2 ^ b) - 2 ^ (2 ^ b - s.regs.opa.toNat)
      exec (.i2t b) s = .next (afterResult (BitVec.ofNat 64 field) (BitVec.ofNat 64 (field / 2 ^ 64))
        (BitVec.ofNat 64 (field / 2 ^ 128)) (BitVec.ofNat 64 (field / 2 ^ 192)) s)) ∧
    (8 < b → exec (.i2t b) s = .next (afterError .badWidth s)) ∧
    (b ≤ 8 → s.regs.opa.toInt < 0 ∨ 2 ^ b < s.regs.opa.toInt → exec (.i2t b) s = .next (afterError .range s))

/-- The thermometer vector that I2T packs is exactly `k` ones followed by `2^b - k` zeros (42_bitcodec.md R154; 00_scope.md R8;
10_state.md R31). -/
def Obligations.ThermometerIsOnesThenZeros : Prop :=
  ∀ (b : Nat) (s : State), b ≤ 8 → 0 ≤ s.regs.opa.toInt → s.regs.opa.toInt ≤ 2 ^ b →
    ∃ t, exec (.i2t b) s = .next t ∧
      vectorOf (2 ^ b) (resultField t.regs) =
        List.replicate s.regs.opa.toNat true ++ List.replicate (2 ^ b - s.regs.opa.toNat) false

/-! ### Ends and frames -/

/-- Every command completes: on every state it answers a next state, never a fault or a refusal (70_reset_and_hazards.md R206;
40_common.md R90). -/
def Obligations.EveryCommandCompletes : Prop :=
  ∀ (i : Instr) (s : State), ∃ t, exec i s = .next t

/-- A command that ends in an error changes `ERR_CODE` and sets `ERR_STICKY`, and leaves every other register and the run exactly as
they were (40_common.md R93). -/
def Obligations.ErrorChangesOnlyCodeAndSticky : Prop :=
  ∀ (i : Instr) (s t : State), exec i s = .next t → t.regs.status.errCode ≠ .noError →
    t = { s with
      regs := { s.regs with status := { s.regs.status with errCode := t.regs.status.errCode, errSticky := true } } }

/-- `finish` and `finish_nores` write what 40_common.md R92 says, and neither changes `ERR_STICKY`. Which successful command ends with
which (R92): NOP and CONFIG with `finish_nores`, so that NOP leaves nothing else changed and CONFIG only the configuration it commits;
the others with `finish`, QUANT with its flags beside it, and with 0 in every result word that the command does not use. -/
def Obligations.SuccessWritesEveryResultWord : Prop :=
  (∀ (r0 r1 r2 r3 : Word) (s : State), finish r0 r1 r2 r3 s = afterResult r0 r1 r2 r3 s ∧ finishNores s = afterNoResult s) ∧
  ∀ (i : Instr) (s t : State), exec i s = .next t → t.regs.status.errCode = .noError →
    t.regs.status.errSticky = s.regs.status.errSticky ∧
    (i = .nop ∨ (∃ nb fzl, i = .config nb fzl) → results t.regs = results s.regs) ∧
    (i = .nop → t = afterNoResult s) ∧
    ((∃ nb fzl, i = .config nb fzl) →
      ∃ nbits xmin xmax delta xminq maxidx, t = afterConfig nbits xmin xmax delta xminq maxidx s) ∧
    (i = .quant → ∃ idx lo hi nan, t = afterQuant idx lo hi nan s) ∧
    (i = .dequant ∨ i = .level ∨ i = .thrld ∨ i = .onebit ∨ (∃ w, i = .i2b w) ∨ (∃ len, i = .b2i len) →
      ∃ r0, t = afterResult r0 0 0 0 s) ∧
    (∀ b, i = .i2t b →
      ∃ r0 r1 r2 r3, t = afterResult r0 r1 r2 r3 s ∧ (b ≤ 6 → r1 = 0) ∧ (b ≤ 7 → r2 = 0 ∧ r3 = 0))

/-- No command writes `OPA`, `OPB` or `THRESH` (40_common.md R98). -/
def Obligations.CommandsPreserveTheOperands : Prop :=
  ∀ (i : Instr) (s t : State), exec i s = .next t →
    t.regs.opa = s.regs.opa ∧ t.regs.opb = s.regs.opb ∧ t.regs.thresh = s.regs.thresh

/-- Which command writes which flag: only a successful QUANT writes `SAT_LO`, `SAT_HI` and `NAN_IN`, at most one of them 1; only a
successful CONFIG writes `CFG_VALID`, and it sets it; only a successful CONFIG writes the configuration registers; a command that ends
in an error, a failing QUANT or CONFIG included, writes none of these; no command touches the run (10_state.md R24, R28, R32;
41_quantizer.md R118; 40_common.md R93). -/
def Obligations.CommandsWriteOnlyTheirFlags : Prop :=
  ∀ (i : Instr) (s t : State), exec i s = .next t →
    (i ≠ .quant → t.regs.status.satLo = s.regs.status.satLo ∧ t.regs.status.satHi = s.regs.status.satHi ∧
      t.regs.status.nanIn = s.regs.status.nanIn) ∧
    (i = .quant → t.regs.status.errCode = .noError →
      ¬ (t.regs.status.satLo = true ∧ t.regs.status.satHi = true) ∧
      ¬ (t.regs.status.satLo = true ∧ t.regs.status.nanIn = true) ∧
      ¬ (t.regs.status.satHi = true ∧ t.regs.status.nanIn = true)) ∧
    ((∀ nb fzl, i ≠ .config nb fzl) →
      t.regs.status.cfgValid = s.regs.status.cfgValid ∧ configuration t.regs = configuration s.regs) ∧
    (∀ nb fzl, i = .config nb fzl → t.regs.status.errCode = .noError → t.regs.status.cfgValid = true) ∧
    (t.regs.status.errCode ≠ .noError →
      t.regs.status.satLo = s.regs.status.satLo ∧ t.regs.status.satHi = s.regs.status.satHi ∧
      t.regs.status.nanIn = s.regs.status.nanIn ∧ t.regs.status.cfgValid = s.regs.status.cfgValid ∧
      configuration t.regs = configuration s.regs) ∧
    (t.inReset = s.inReset ∧ t.program = s.program ∧ t.pos = s.pos ∧ t.readValues = s.readValues)

/-- Exactly one code is reported per command: the first that applies in the order of 60_exceptions.md R184, `ILLEGAL` before any
operand is examined. -/
def Obligations.FirstApplicableErrorIsReported : Prop :=
  (∀ (word : Word) (s t : State), (decode word).toOption = none → writeCmd word s = .next t →
    t.regs.status.errCode = .illegal) ∧
  (∀ (i : Instr) (s t : State), exec i s = .next t → t.regs.status.errCode = firstError i s.regs)

/-- A command's effect is a function of the command, `OPA`, `OPB`, `THRESH`, `STATUS` and the configuration registers alone: on two
states that agree on those it leaves them agreeing, and writes the same result words in both or none in either (40_common.md
R95). -/
def Obligations.CommandsAreAFunctionOfTheirInputs : Prop :=
  ∀ (i : Instr) (s₁ s₂ t₁ t₂ : State), sameInputs s₁.regs s₂.regs → exec i s₁ = .next t₁ → exec i s₂ = .next t₂ →
    sameInputs t₁.regs t₂.regs ∧
    (results t₁.regs = results t₂.regs ∨ (results t₁.regs = results s₁.regs ∧ results t₂.regs = results s₂.regs))

/-! ### The whole machine -/

/-- The configuration registers change only by a CONFIG written to `CMD` that succeeds, or by reset: the host cannot write them and
no other command does (10_state.md R28, R29). -/
def Obligations.OnlyConfigOrResetChangesTheConfiguration : Prop :=
  ∀ s t : State, step s = .next t → configuration t.regs ≠ configuration s.regs →
    (∃ word nb, nextEvent s = some (.access (.write 0x00 64 word)) ∧ decode word = .ok (.config nb false) ∧
      ¬ BadConfiguration nb (ofWord s.regs.opa) (ofWord s.regs.opb)) ∨
    (∃ asserted, nextEvent s = some (.resetLine asserted))

/-- `CFG_VALID` is set only by a CONFIG that succeeds and cleared only by reset (10_state.md R24, R35). -/
def Obligations.CfgValidMovesOnlyByConfigOrReset : Prop :=
  ∀ s t : State, step s = .next t → (∀ asserted, nextEvent s ≠ some (.resetLine asserted)) →
    (s.regs.status.cfgValid = true → t.regs.status.cfgValid = true) ∧
    (s.regs.status.cfgValid = false → t.regs.status.cfgValid = true →
      ∃ word nb, nextEvent s = some (.access (.write 0x00 64 word)) ∧ decode word = .ok (.config nb false) ∧
        ¬ BadConfiguration nb (ofWord s.regs.opa) (ofWord s.regs.opb))

/-- `ERR_STICKY` stays 1 until the host writes `STATUS` with bit 1 set, or reset (10_state.md R24; 60_exceptions.md R187). -/
def Obligations.ErrStickyStaysUntilCleared : Prop :=
  ∀ s t : State, step s = .next t → s.regs.status.errSticky = true → t.regs.status.errSticky = false →
    (∃ v, nextEvent s = some (.access (.write 0x08 64 v)) ∧ v.getLsbD 1 = true) ∨
    (∃ asserted, nextEvent s = some (.resetLine asserted))

/-- The state after reset meets the invariant of 10_state.md R35, and every register, and every slot of the window, reads 0 in it
(70_reset_and_hazards.md R200). -/
def Obligations.ResetMeetsTheInvariant : Prop :=
  State.reset.Inv ∧ (∀ g : Reg, readReg g State.reset.regs = 0) ∧ (∀ off : Int, readSlot off State.reset.regs = 0)

/-- Every step keeps the invariant of 10_state.md R35: unconfigured registers are all 0, and configured ones hold a valid
configuration with the derived values of 41_quantizer.md R111. -/
def Obligations.EveryStepKeepsTheInvariant : Prop :=
  ∀ s t : State, s.Inv → step s = .next t → t.Inv

/-- While reset is asserted no host access runs; when it is released every register holds its reset value, which every slot of the
window reads as 0 (70_reset_and_hazards.md R200). That an access during reset is a bus error is the model's inference, and that the
release takes one position of the list and keeps the host's program and the values it has read is the model's choice (both log 4:
DEDUCED and DESIGN CHOICE). -/
def Obligations.ReleasedResetRestoresEveryRegister : Prop :=
  ∀ s : State, s.inReset = true →
    (∀ a, nextEvent s = some (.access a) → ∃ f, step s = .fault f) ∧
    (nextEvent s = some (.resetLine false) →
      ∃ t, step s = .next t ∧ t.inReset = false ∧ t.regs = State.reset.regs ∧ (∀ off, readSlot off t.regs = 0) ∧
        t.program = s.program ∧ t.pos = s.pos + 1 ∧ t.readValues = s.readValues)

/-- A run over admitted accesses performs them all, one step each, and then stays as it is (70_reset_and_hazards.md R205, R206). That
the block keeps its state once the last access is done is the model's choice (log 2). -/
def Obligations.AdmittedRunsReachTheirEnd : Prop :=
  ∀ s : State, s.inReset = false → s.pos = 0 → isHostProgram s.program = true →
    ∃ t, Host.Core.run Sys2Proof.core s.program.length s = .next t ∧ runEnded t = true ∧ t.pos = s.program.length ∧
      t.program = s.program ∧ step t = .next t

/-- `QUANTIZE_ARRAY` reads the decoded value and the index of every element, in order, and leaves the configuration (41_quantizer.md
R135). -/
def Obligations.QuantizeArrayReadsEveryPair : Prop :=
  ∀ (xs : List Word) (rest : List HostEvent) (s : State), s.inReset = false → s.regs.status.cfgValid = true →
    remaining s = expandLine (.quantizeArray xs) ++ rest →
    ∃ t, Host.Core.run Sys2Proof.core (4 * xs.length) s = .next t ∧
      t.readValues = s.readValues ++ xs.flatMap (quantPair s.regs) ∧ remaining t = rest ∧
      configuration t.regs = configuration s.regs ∧ t.regs.status.cfgValid = true

/-- `GET_LEVELS` reads the ordered sequence of the `max_index + 1` levels, and `GET_THRESHOLDS` the `2^NBITS - 2` thresholds, of a
configuration of at most 32 bits (41_quantizer.md R137, R138). -/
def Obligations.TableReadsGiveTheWholeTable : Prop :=
  ∀ (rest : List HostEvent) (s : State), s.inReset = false → s.regs.status.cfgValid = true → s.regs.nbits.toNat ≤ 32 →
    (remaining s = expandLine (.getLevels s.regs.maxidx.toNat) ++ rest →
      ∃ t, Host.Core.run Sys2Proof.core (3 * (s.regs.maxidx.toNat + 1)) s = .next t ∧
        t.readValues = s.readValues ++ (List.range (s.regs.maxidx.toNat + 1)).map (fun i => toWord (level s.regs i)) ∧
        remaining t = rest) ∧
    (remaining s = expandLine (.getThresholds s.regs.nbits.toNat) ++ rest →
      ∃ t, Host.Core.run Sys2Proof.core (3 * (2 ^ s.regs.nbits.toNat - 2)) s = .next t ∧
        t.readValues =
          s.readValues ++ (List.range (2 ^ s.regs.nbits.toNat - 2)).map (fun i => toWord (threshold s.regs i)) ∧
        remaining t = rest)

/-- `INTS_TO_THERMO_MATRIX` ends with a read of `STATUS`, and its `ERR_STICKY` is 1 exactly when some row was out of range
(42_bitcodec.md R158), or, for a width above 8, when there is a row at all (42_bitcodec.md R154), for every width the field holds. An
integer that does not fit 64 bits is read modulo 2^64: that is the model's choice (DESIGN CHOICE, log 16). -/
def Obligations.ThermoMatrixReportsAnyBadRow : Prop :=
  ∀ (xs : List Int) (b : Nat) (rest : List HostEvent) (s : State), s.inReset = false → b ≤ 255 →
    remaining s = expandLine (.intsToThermoMatrix xs b) ++ rest →
    ∃ t, Host.Core.run Sys2Proof.core (expandLine (.intsToThermoMatrix xs b)).length s = .next t ∧
      t.readValues.getLast? = some (statusWord t.regs.status) ∧ remaining t = rest ∧
      (t.regs.status.errSticky = true ↔
        ∃ x ∈ xs, 8 < b ∨ (BitVec.ofInt 64 x).toInt < 0 ∨ 2 ^ b < (BitVec.ofInt 64 x).toInt)

/-- Every merge of two hosts' access lists holds all of their accesses, keeps each host's own order, and is a host program exactly when
both lists are. It says what each merge is, not that every list with these properties is a merge. The merges are those of
`Interleaves`, the model's reading of 20_memory.md R62 (DEDUCED, log 11). -/
def Obligations.MergedProgramsKeepEachHostsOrder : Prop :=
  ∀ p q m : List HostEvent, Interleaves p q m →
    m.length = p.length + q.length ∧ p.Sublist m ∧ q.Sublist m ∧
    (isHostProgram m = true ↔ isHostProgram p = true ∧ isHostProgram q = true)

/-! ### The arithmetic -/

/-- A committed configuration has a finite `DELTA` greater than zero and a finite `XMINQ` (10_state.md R29). -/
def Obligations.CommittedDeltaIsPositiveAndFinite : Prop :=
  ∀ r : Registers, ConfigInvariant r → r.status.cfgValid = true →
    (∃ units, ofWord r.delta = .fin false units ∧ 0 < units) ∧ isfinite (ofWord r.xminq) = true

/-- The levels of a committed configuration: the first is `XMINQ`, none is a NaN, and each is at most the next (41_quantizer.md
R115). -/
def Obligations.LevelsNeverDecrease : Prop :=
  ∀ r : Registers, ConfigInvariant r → r.status.cfgValid = true →
    toWord (level r 0) = r.xminq ∧
    ∀ i < r.maxidx.toNat, isnan (level r i) = false ∧ isnan (level r (i + 1)) = false ∧
      flt (level r (i + 1)) (level r i) = false

/-- Every rounding is to the nearest magnitude that a binary64 of any exponent has, and a tie goes to the even significand; the
subnormal step is kept (00_scope.md R10, general knowledge by its own words: PRESUMED, log 8). -/
def Obligations.RoundingIsToNearestTiesToEven : Prop :=
  ∀ num den : Nat, 0 < den →
    Representable (roundUnits num den) ∧
    ∀ v : Nat, Representable v →
      distanceFrom num den (roundUnits num den) ≤ distanceFrom num den v ∧
      (v ≠ roundUnits num den → distanceFrom num den v = distanceFrom num den (roundUnits num den) →
        roundUnits num den / 2 ^ stepShift (roundUnits num den) % 2 = 0)

/-- A result rounds to an infinity exactly from half a step above the largest finite number on (00_scope.md R10, general knowledge
by its own words: PRESUMED, log 8). -/
def Obligations.OverflowRoundsToInfinity : Prop :=
  ∀ (neg : Bool) (num den : Nat), 0 < den →
    (roundTo neg num den = .inf neg ↔ (2 ^ 54 - 1) * 2 ^ 2044 * den ≤ num)

/-- The pattern of a number and the number of a pattern agree: every pattern comes back from its reading, and every rounded result
from its pattern (00_scope.md R6, general knowledge by its own words: PRESUMED, log 8). -/
def Obligations.PatternsAndNumbersAgree : Prop :=
  (∀ w : Word, toWord (ofWord w) = w) ∧
  (∀ (neg : Bool) (num den : Nat), 0 < den → ofWord (toWord (roundTo neg num den)) = roundTo neg num den)

/-- `i2f` is exact on every integer of magnitude at most 2^53, and `f2u` undoes `u2f` there (00_scope.md R10). -/
def Obligations.IntegersToTwoTo53AreExact : Prop :=
  (∀ n : Int, n.natAbs ≤ 2 ^ 53 → i2f n = .fin (decide (n < 0)) (n.natAbs * oneUnits)) ∧
  (∀ n : Nat, n ≤ 2 ^ 53 → f2u (u2f n) = BitVec.ofNat 64 n)

/-- `fadd`, `fsub`, `fmul` and `fdiv` of finite numbers are one rounding of the exact sum, difference, product or quotient of their
units of 2^-1074, with the sign of a zero result; `fabs` clears the sign; and what each answers on an infinity, on a NaN and on a zero
divisor (00_scope.md R10, general knowledge by its own words: PRESUMED, log 8). -/
def Obligations.ArithmeticRoundsTheExactResult : Prop :=
  (∀ (na nb : Bool) (ua ub : Nat),
    let a := Binary64.fin na ua
    let b := Binary64.fin nb ub
    let x : Int := if na then -(ua : Int) else ua
    let y : Int := if nb then -(ub : Int) else ub
    (x + y ≠ 0 → fadd a b = roundTo (decide (x + y < 0)) (x + y).natAbs 1) ∧
    (x + y = 0 → fadd a b = .fin (na && nb) 0) ∧
    (x - y ≠ 0 → fsub a b = roundTo (decide (x - y < 0)) (x - y).natAbs 1) ∧
    (x - y = 0 → fsub a b = .fin (na && !nb) 0) ∧
    fmul a b = roundTo (na ^^ nb) (ua * ub) (2 ^ 1074) ∧
    (ub ≠ 0 → fdiv a b = roundTo (na ^^ nb) (ua * 2 ^ 1074) ub) ∧
    (ub = 0 → ua ≠ 0 → fdiv a b = .inf (na ^^ nb)) ∧
    (ub = 0 → ua = 0 → isnan (fdiv a b) = true) ∧
    fabs a = .fin false ua) ∧
  (∀ na nb : Bool,
    let a := Binary64.inf na
    let b := Binary64.inf nb
    (na = nb → fadd a b = a ∧ isnan (fsub a b) = true) ∧ (na ≠ nb → isnan (fadd a b) = true ∧ fsub a b = a) ∧
    fmul a b = .inf (na ^^ nb) ∧ isnan (fdiv a b) = true ∧ fabs a = .inf false) ∧
  (∀ (na nb : Bool) (u : Nat),
    let a := Binary64.inf na
    let b := Binary64.fin nb u
    fadd a b = a ∧ fadd b a = a ∧ fsub a b = a ∧ fsub b a = .inf (!na) ∧
    (u ≠ 0 → fmul a b = .inf (na ^^ nb) ∧ fmul b a = .inf (na ^^ nb)) ∧
    (u = 0 → isnan (fmul a b) = true ∧ isnan (fmul b a) = true) ∧
    fdiv a b = .inf (na ^^ nb) ∧ fdiv b a = .fin (na ^^ nb) 0) ∧
  (∀ a b : Binary64, isnan a = true ∨ isnan b = true →
    isnan (fadd a b) = true ∧ isnan (fsub a b) = true ∧ isnan (fmul a b) = true ∧ isnan (fdiv a b) = true)

/-- `rint` of a finite number is the nearest whole number, a whole number `m` being `m * 2^1074` units, and a tie goes to the even one
(00_scope.md R10); it keeps the sign, also of a zero (PRESUMED, log 8). `rint` of an infinity is that infinity, and of a NaN a NaN
(R10). -/
def Obligations.RintRoundsToNearestTiesToEven : Prop :=
  (∀ (neg : Bool) (units : Nat), ∃ m : Nat,
    rint (.fin neg units) = .fin neg (m * 2 ^ 1074) ∧
    ∀ k : Nat,
      distanceFrom units 1 (m * 2 ^ 1074) ≤ distanceFrom units 1 (k * 2 ^ 1074) ∧
      (k ≠ m → distanceFrom units 1 (k * 2 ^ 1074) = distanceFrom units 1 (m * 2 ^ 1074) → m % 2 = 0)) ∧
  (∀ neg : Bool, rint (.inf neg) = .inf neg) ∧
  (∀ pattern : Word, isnan (rint (.nan pattern)) = true)

/-- `flt` and `fgt` are the strict order of the numbers, from minus infinity over the finite numbers to plus infinity; both are false
when either operand is a NaN; and `-0` and `+0` compare equal (00_scope.md R10, general knowledge by its own words: PRESUMED,
log 8). -/
def Obligations.ComparisonsAreTheOrderOfTheNumbers : Prop :=
  (∀ a b : Binary64,
    (flt a b = true ↔ ∃ x y, orderPlace a = some x ∧ orderPlace b = some y ∧ x < y) ∧
    (fgt a b = true ↔ ∃ x y, orderPlace a = some x ∧ orderPlace b = some y ∧ y < x) ∧
    (isnan a = true ∨ isnan b = true → flt a b = false ∧ fgt a b = false)) ∧
  (∀ na nb : Bool, orderPlace (.fin na 0) = some 0 ∧ flt (.fin na 0) (.fin nb 0) = false ∧ fgt (.fin na 0) (.fin nb 0) = false)
end

