-- ==== Sys2Proof/Laws/Binary64.lean ====
section
/-! SUPPORT. Which class each arithmetic primitive answers, said once, so that no proof unfolds it for that. -/

namespace Sys2Proof.Machine

/-- The number 1 is 2^1074 units; for proofs that need the power itself, since the definition is irreducible. -/
theorem oneUnits_eq : oneUnits = 2 ^ 1074 := by unfold oneUnits; rfl

/-- A rounded number is finite or an infinity of its sign. -/
theorem roundTo_cases (neg : Bool) (num den : Nat) :
    (roundUnits num den < overflowUnits ∧ roundTo neg num den = .fin neg (roundUnits num den)) ∨
    (overflowUnits ≤ roundUnits num den ∧ roundTo neg num den = .inf neg) := by
  unfold roundTo
  by_cases h : roundUnits num den < overflowUnits
  · exact .inl ⟨h, if_pos h⟩
  · exact .inr ⟨Nat.le_of_not_lt h, if_neg h⟩

@[simp] theorem isnan_roundTo (neg : Bool) (num den : Nat) : isnan (roundTo neg num den) = false := by
  rcases roundTo_cases neg num den with ⟨_, h⟩ | ⟨_, h⟩ <;> rw [h] <;> rfl

@[simp] theorem isnan_i2f (n : Int) : isnan (i2f n) = false := isnan_roundTo _ _ _

@[simp] theorem isnan_u2f (n : Nat) : isnan (u2f n) = false := isnan_roundTo _ _ _

@[simp] theorem isnan_addFinite (na nb : Bool) (ua ub : Nat) : isnan (addFinite na ua nb ub) = false := by
  simp only [addFinite]
  split
  · rfl
  · exact isnan_roundTo _ _ _

/-- A sum of two numbers is a NaN only if they are infinities of opposite signs. -/
theorem isnan_fadd (a b : Binary64) (ha : isnan a = false) (hb : isnan b = false)
    (h : ∀ neg, ¬ (a = .inf neg ∧ b = .inf (!neg))) : isnan (fadd a b) = false := by
  cases a with
  | nan p => simp [isnan] at ha
  | inf na =>
    cases b with
    | nan p => simp [isnan] at hb
    | inf nb =>
      have hne : na = nb := by
        by_contra hne
        exact h na ⟨rfl, by cases na <;> cases nb <;> simp_all⟩
      simp [fadd, addOrNaN, hne, isnan]
    | fin nb ub => simp [fadd, addOrNaN, isnan]
  | fin na ua =>
    cases b with
    | nan p => simp [isnan] at hb
    | inf nb => simp [fadd, addOrNaN, isnan]
    | fin nb ub => simp [fadd, addOrNaN]

end Sys2Proof.Machine
end

