-- ==== Sys2Proof/Laws/State.lean ====
section
/-! SUPPORT. What each update leaves in each field, one lemma per field per update, so that no proof unfolds a record update. -/

namespace Sys2Proof.Machine


/-! ### `Status.withSuccess` -/

@[simp] theorem Status.withSuccess_cfgValid  (st : Status) :
    (st.withSuccess).cfgValid = st.cfgValid := rfl
@[simp] theorem Status.withSuccess_errSticky  (st : Status) :
    (st.withSuccess).errSticky = st.errSticky := rfl
@[simp] theorem Status.withSuccess_satLo  (st : Status) :
    (st.withSuccess).satLo = st.satLo := rfl
@[simp] theorem Status.withSuccess_satHi  (st : Status) :
    (st.withSuccess).satHi = st.satHi := rfl
@[simp] theorem Status.withSuccess_nanIn  (st : Status) :
    (st.withSuccess).nanIn = st.nanIn := rfl
@[simp] theorem Status.withSuccess_errCode  (st : Status) :
    (st.withSuccess).errCode = .noError := rfl

/-! ### `Status.withError` -/

@[simp] theorem Status.withError_cfgValid (code : ErrorCode) (st : Status) :
    (st.withError code).cfgValid = st.cfgValid := rfl
@[simp] theorem Status.withError_errSticky (code : ErrorCode) (st : Status) :
    (st.withError code).errSticky = true := rfl
@[simp] theorem Status.withError_satLo (code : ErrorCode) (st : Status) :
    (st.withError code).satLo = st.satLo := rfl
@[simp] theorem Status.withError_satHi (code : ErrorCode) (st : Status) :
    (st.withError code).satHi = st.satHi := rfl
@[simp] theorem Status.withError_nanIn (code : ErrorCode) (st : Status) :
    (st.withError code).nanIn = st.nanIn := rfl
@[simp] theorem Status.withError_errCode (code : ErrorCode) (st : Status) :
    (st.withError code).errCode = code := rfl

/-! ### `Status.withConfigured` -/

@[simp] theorem Status.withConfigured_cfgValid  (st : Status) :
    (st.withConfigured).cfgValid = true := rfl
@[simp] theorem Status.withConfigured_errSticky  (st : Status) :
    (st.withConfigured).errSticky = st.errSticky := rfl
@[simp] theorem Status.withConfigured_satLo  (st : Status) :
    (st.withConfigured).satLo = st.satLo := rfl
@[simp] theorem Status.withConfigured_satHi  (st : Status) :
    (st.withConfigured).satHi = st.satHi := rfl
@[simp] theorem Status.withConfigured_nanIn  (st : Status) :
    (st.withConfigured).nanIn = st.nanIn := rfl
@[simp] theorem Status.withConfigured_errCode  (st : Status) :
    (st.withConfigured).errCode = st.errCode := rfl

/-! ### `Status.withQuantFlags` -/

@[simp] theorem Status.withQuantFlags_cfgValid (f : QuantFlags) (st : Status) :
    (st.withQuantFlags f).cfgValid = st.cfgValid := rfl
@[simp] theorem Status.withQuantFlags_errSticky (f : QuantFlags) (st : Status) :
    (st.withQuantFlags f).errSticky = st.errSticky := rfl
@[simp] theorem Status.withQuantFlags_satLo (f : QuantFlags) (st : Status) :
    (st.withQuantFlags f).satLo = f.lo := rfl
@[simp] theorem Status.withQuantFlags_satHi (f : QuantFlags) (st : Status) :
    (st.withQuantFlags f).satHi = f.hi := rfl
@[simp] theorem Status.withQuantFlags_nanIn (f : QuantFlags) (st : Status) :
    (st.withQuantFlags f).nanIn = f.nan := rfl
@[simp] theorem Status.withQuantFlags_errCode (f : QuantFlags) (st : Status) :
    (st.withQuantFlags f).errCode = st.errCode := rfl

/-! ### `Status.withHostWrite` -/

@[simp] theorem Status.withHostWrite_cfgValid (v : Word) (st : Status) :
    (st.withHostWrite v).cfgValid = st.cfgValid := rfl
@[simp] theorem Status.withHostWrite_errSticky (v : Word) (st : Status) :
    (st.withHostWrite v).errSticky = (st.errSticky && !v.getLsbD 1) := rfl
@[simp] theorem Status.withHostWrite_satLo (v : Word) (st : Status) :
    (st.withHostWrite v).satLo = st.satLo := rfl
@[simp] theorem Status.withHostWrite_satHi (v : Word) (st : Status) :
    (st.withHostWrite v).satHi = st.satHi := rfl
@[simp] theorem Status.withHostWrite_nanIn (v : Word) (st : Status) :
    (st.withHostWrite v).nanIn = st.nanIn := rfl
@[simp] theorem Status.withHostWrite_errCode (v : Word) (st : Status) :
    (st.withHostWrite v).errCode = st.errCode := rfl

/-! ### `Registers.withStatus` -/

@[simp] theorem Registers.withStatus_status (st : Status) (r : Registers) :
    (r.withStatus st).status = st := rfl
@[simp] theorem Registers.withStatus_opa (st : Status) (r : Registers) :
    (r.withStatus st).opa = r.opa := rfl
@[simp] theorem Registers.withStatus_opb (st : Status) (r : Registers) :
    (r.withStatus st).opb = r.opb := rfl
@[simp] theorem Registers.withStatus_thresh (st : Status) (r : Registers) :
    (r.withStatus st).thresh = r.thresh := rfl
@[simp] theorem Registers.withStatus_res0 (st : Status) (r : Registers) :
    (r.withStatus st).res0 = r.res0 := rfl
@[simp] theorem Registers.withStatus_res1 (st : Status) (r : Registers) :
    (r.withStatus st).res1 = r.res1 := rfl
@[simp] theorem Registers.withStatus_res2 (st : Status) (r : Registers) :
    (r.withStatus st).res2 = r.res2 := rfl
@[simp] theorem Registers.withStatus_res3 (st : Status) (r : Registers) :
    (r.withStatus st).res3 = r.res3 := rfl
@[simp] theorem Registers.withStatus_nbits (st : Status) (r : Registers) :
    (r.withStatus st).nbits = r.nbits := rfl
@[simp] theorem Registers.withStatus_xmin (st : Status) (r : Registers) :
    (r.withStatus st).xmin = r.xmin := rfl
@[simp] theorem Registers.withStatus_xmax (st : Status) (r : Registers) :
    (r.withStatus st).xmax = r.xmax := rfl
@[simp] theorem Registers.withStatus_delta (st : Status) (r : Registers) :
    (r.withStatus st).delta = r.delta := rfl
@[simp] theorem Registers.withStatus_xminq (st : Status) (r : Registers) :
    (r.withStatus st).xminq = r.xminq := rfl
@[simp] theorem Registers.withStatus_maxidx (st : Status) (r : Registers) :
    (r.withStatus st).maxidx = r.maxidx := rfl

/-! ### `Registers.withResults` -/

@[simp] theorem Registers.withResults_status (r0 r1 r2 r3 : Word) (r : Registers) :
    (r.withResults r0 r1 r2 r3).status = r.status := rfl
@[simp] theorem Registers.withResults_opa (r0 r1 r2 r3 : Word) (r : Registers) :
    (r.withResults r0 r1 r2 r3).opa = r.opa := rfl
@[simp] theorem Registers.withResults_opb (r0 r1 r2 r3 : Word) (r : Registers) :
    (r.withResults r0 r1 r2 r3).opb = r.opb := rfl
@[simp] theorem Registers.withResults_thresh (r0 r1 r2 r3 : Word) (r : Registers) :
    (r.withResults r0 r1 r2 r3).thresh = r.thresh := rfl
@[simp] theorem Registers.withResults_res0 (r0 r1 r2 r3 : Word) (r : Registers) :
    (r.withResults r0 r1 r2 r3).res0 = r0 := rfl
@[simp] theorem Registers.withResults_res1 (r0 r1 r2 r3 : Word) (r : Registers) :
    (r.withResults r0 r1 r2 r3).res1 = r1 := rfl
@[simp] theorem Registers.withResults_res2 (r0 r1 r2 r3 : Word) (r : Registers) :
    (r.withResults r0 r1 r2 r3).res2 = r2 := rfl
@[simp] theorem Registers.withResults_res3 (r0 r1 r2 r3 : Word) (r : Registers) :
    (r.withResults r0 r1 r2 r3).res3 = r3 := rfl
@[simp] theorem Registers.withResults_nbits (r0 r1 r2 r3 : Word) (r : Registers) :
    (r.withResults r0 r1 r2 r3).nbits = r.nbits := rfl
@[simp] theorem Registers.withResults_xmin (r0 r1 r2 r3 : Word) (r : Registers) :
    (r.withResults r0 r1 r2 r3).xmin = r.xmin := rfl
@[simp] theorem Registers.withResults_xmax (r0 r1 r2 r3 : Word) (r : Registers) :
    (r.withResults r0 r1 r2 r3).xmax = r.xmax := rfl
@[simp] theorem Registers.withResults_delta (r0 r1 r2 r3 : Word) (r : Registers) :
    (r.withResults r0 r1 r2 r3).delta = r.delta := rfl
@[simp] theorem Registers.withResults_xminq (r0 r1 r2 r3 : Word) (r : Registers) :
    (r.withResults r0 r1 r2 r3).xminq = r.xminq := rfl
@[simp] theorem Registers.withResults_maxidx (r0 r1 r2 r3 : Word) (r : Registers) :
    (r.withResults r0 r1 r2 r3).maxidx = r.maxidx := rfl

/-! ### `Registers.withConfig` -/

@[simp] theorem Registers.withConfig_status (nb lo hi dl xq mi : Word) (r : Registers) :
    (r.withConfig nb lo hi dl xq mi).status = r.status := rfl
@[simp] theorem Registers.withConfig_opa (nb lo hi dl xq mi : Word) (r : Registers) :
    (r.withConfig nb lo hi dl xq mi).opa = r.opa := rfl
@[simp] theorem Registers.withConfig_opb (nb lo hi dl xq mi : Word) (r : Registers) :
    (r.withConfig nb lo hi dl xq mi).opb = r.opb := rfl
@[simp] theorem Registers.withConfig_thresh (nb lo hi dl xq mi : Word) (r : Registers) :
    (r.withConfig nb lo hi dl xq mi).thresh = r.thresh := rfl
@[simp] theorem Registers.withConfig_res0 (nb lo hi dl xq mi : Word) (r : Registers) :
    (r.withConfig nb lo hi dl xq mi).res0 = r.res0 := rfl
@[simp] theorem Registers.withConfig_res1 (nb lo hi dl xq mi : Word) (r : Registers) :
    (r.withConfig nb lo hi dl xq mi).res1 = r.res1 := rfl
@[simp] theorem Registers.withConfig_res2 (nb lo hi dl xq mi : Word) (r : Registers) :
    (r.withConfig nb lo hi dl xq mi).res2 = r.res2 := rfl
@[simp] theorem Registers.withConfig_res3 (nb lo hi dl xq mi : Word) (r : Registers) :
    (r.withConfig nb lo hi dl xq mi).res3 = r.res3 := rfl
@[simp] theorem Registers.withConfig_nbits (nb lo hi dl xq mi : Word) (r : Registers) :
    (r.withConfig nb lo hi dl xq mi).nbits = nb := rfl
@[simp] theorem Registers.withConfig_xmin (nb lo hi dl xq mi : Word) (r : Registers) :
    (r.withConfig nb lo hi dl xq mi).xmin = lo := rfl
@[simp] theorem Registers.withConfig_xmax (nb lo hi dl xq mi : Word) (r : Registers) :
    (r.withConfig nb lo hi dl xq mi).xmax = hi := rfl
@[simp] theorem Registers.withConfig_delta (nb lo hi dl xq mi : Word) (r : Registers) :
    (r.withConfig nb lo hi dl xq mi).delta = dl := rfl
@[simp] theorem Registers.withConfig_xminq (nb lo hi dl xq mi : Word) (r : Registers) :
    (r.withConfig nb lo hi dl xq mi).xminq = xq := rfl
@[simp] theorem Registers.withConfig_maxidx (nb lo hi dl xq mi : Word) (r : Registers) :
    (r.withConfig nb lo hi dl xq mi).maxidx = mi := rfl

/-! ### `State.withRegs` -/

@[simp] theorem State.withRegs_regs (r : Registers) (s : State) :
    (s.withRegs r).regs = r := rfl
@[simp] theorem State.withRegs_inReset (r : Registers) (s : State) :
    (s.withRegs r).inReset = s.inReset := rfl
@[simp] theorem State.withRegs_program (r : Registers) (s : State) :
    (s.withRegs r).program = s.program := rfl
@[simp] theorem State.withRegs_pos (r : Registers) (s : State) :
    (s.withRegs r).pos = s.pos := rfl
@[simp] theorem State.withRegs_readValues (r : Registers) (s : State) :
    (s.withRegs r).readValues = s.readValues := rfl

/-! ### `State.advance` -/

@[simp] theorem State.advance_regs  (s : State) :
    (s.advance).regs = s.regs := rfl
@[simp] theorem State.advance_inReset  (s : State) :
    (s.advance).inReset = s.inReset := rfl
@[simp] theorem State.advance_program  (s : State) :
    (s.advance).program = s.program := rfl
@[simp] theorem State.advance_pos  (s : State) :
    (s.advance).pos = s.pos + 1 := rfl
@[simp] theorem State.advance_readValues  (s : State) :
    (s.advance).readValues = s.readValues := rfl

/-! ### `State.recordRead` -/

@[simp] theorem State.recordRead_regs (v : Word) (s : State) :
    (s.recordRead v).regs = s.regs := rfl
@[simp] theorem State.recordRead_inReset (v : Word) (s : State) :
    (s.recordRead v).inReset = s.inReset := rfl
@[simp] theorem State.recordRead_program (v : Word) (s : State) :
    (s.recordRead v).program = s.program := rfl
@[simp] theorem State.recordRead_pos (v : Word) (s : State) :
    (s.recordRead v).pos = s.pos := rfl
@[simp] theorem State.recordRead_readValues (v : Word) (s : State) :
    (s.recordRead v).readValues = s.readValues ++ [v] := rfl

end Sys2Proof.Machine
end

