-- ==== Sys2Proof/Laws/Ops.lean ====
section
/-! SUPPORT. What the shared operations do: the three ends of a command, the configuration test and the reset line. -/

namespace Sys2Proof.Machine

/-- `finish_nores` changes `ERR_CODE` only. -/
theorem finishNores_spec (s : State) :
    finishNores s = { s with regs := { s.regs with status := { s.regs.status with errCode := .noError } } } := rfl

/-- `finish` changes the result words and `ERR_CODE` only. -/
theorem finish_spec (r0 r1 r2 r3 : Word) (s : State) :
    finish r0 r1 r2 r3 s =
      { s with
        regs := { s.regs with res0 := r0, res1 := r1, res2 := r2, res3 := r3, status := { s.regs.status with errCode := .noError } } } :=
  rfl

/-- `raise Error(code)` changes `ERR_CODE` and `ERR_STICKY` only. -/
theorem raiseError_spec (code : ErrorCode) (s : State) :
    raiseError code s =
      { s with regs := { s.regs with status := { s.regs.status with errCode := code, errSticky := true } } } := rfl

/-- Writing QUANT's flags changes the three flags only. -/
theorem writeQuantFlags_spec (f : QuantFlags) (s : State) :
    writeQuantFlags f s =
      { s with regs := { s.regs with status := { s.regs.status with satLo := f.lo, satHi := f.hi, nanIn := f.nan } } } := rfl

/-- Committing a configuration changes the six configuration registers and `CFG_VALID` only. -/
theorem commitConfig_spec (nb lo hi dl xq mi : Word) (s : State) :
    commitConfig nb lo hi dl xq mi s =
      { s with
        regs := { s.regs with
          nbits := nb, xmin := lo, xmax := hi, delta := dl, xminq := xq, maxidx := mi
          status := { s.regs.status with cfgValid := true } } } := rfl

/-- The configuration test passes exactly on a configured state. -/
theorem ifConfigured_spec (s t : State) :
    (s.regs.status.cfgValid = true ∧ ifConfigured s t = t) ∨
    (s.regs.status.cfgValid = false ∧ ifConfigured s t = raiseError .notConfigured s) := by
  unfold ifConfigured
  cases s.regs.status.cfgValid
  · exact .inr ⟨rfl, rfl⟩
  · exact .inl ⟨rfl, rfl⟩

@[simp] theorem ifConfigured_of_valid (s t : State) (h : s.regs.status.cfgValid = true) : ifConfigured s t = t := by
  simp [ifConfigured, h]

@[simp] theorem ifConfigured_of_not_valid (s t : State) (h : s.regs.status.cfgValid = false) :
    ifConfigured s t = raiseError .notConfigured s := by
  simp [ifConfigured, h]

/-- Moving the reset line: asserted, released, or not moved. -/
theorem moveResetLine_spec (asserted : Bool) (s : State) :
    (s.inReset = false ∧ asserted = true ∧
      moveResetLine asserted s = { s with inReset := true, regs := Config.registersDuringReset s.pos }) ∨
    (s.inReset = true ∧ asserted = false ∧ moveResetLine asserted s = { s with inReset := false, regs := Registers.reset }) ∨
    (s.inReset = asserted ∧ moveResetLine asserted s = s) := by
  unfold moveResetLine
  cases h : s.inReset <;> cases asserted <;> simp

end Sys2Proof.Machine
end

