-- ==== Sys2Proof/Laws/Exec.lean ====
section
/-! SUPPORT. What each command can do, said once per command, and once for all of them. -/

namespace Sys2Proof.Machine

/-- NOP ends with `finish_nores`. -/
theorem execNop_spec (s : State) : execNop s = .next (finishNores s) := rfl

/-- CONFIG ends with the first error of its checks, or commits. -/
theorem execConfig_spec (nb : Nat) (fzl : Bool) (s : State) :
    (∃ code, configError nb fzl (opaBinary64 s.regs) (opbBinary64 s.regs) = some code ∧
      execConfig nb fzl s = .next (raiseError code s)) ∨
    (configError nb fzl (opaBinary64 s.regs) (opbBinary64 s.regs) = none ∧
      execConfig nb fzl s = .next (finishNores (commitDerived nb s))) := by
  unfold execConfig
  cases h : configError nb fzl (opaBinary64 s.regs) (opbBinary64 s.regs) with
  | none => exact .inr ⟨rfl, rfl⟩
  | some code => exact .inl ⟨code, rfl, rfl⟩

/-- CONFIG's checks name `UNSUPPORTED`, `BAD_CONFIG` or nothing. -/
theorem configError_cases (nb : Nat) (fzl : Bool) (lo hi : Binary64) :
    configError nb fzl lo hi = none ∨ configError nb fzl lo hi = some .unsupported ∨
      configError nb fzl lo hi = some .badConfig := by
  unfold configError
  split
  · exact .inr (.inl rfl)
  · split_ifs <;> simp

/-- QUANT on a configured state. -/
theorem execQuant_of_valid (s : State) (h : s.regs.status.cfgValid = true) :
    execQuant s = .next
      (finish
        (toWord (value s.regs (asU64 (clampedIndex s.regs (roundedQuotient s.regs (opaBinary64 s.regs))))))
        (clampedIndex s.regs (roundedQuotient s.regs (opaBinary64 s.regs))) 0 0
        (writeQuantFlags (quantFlags (roundedQuotient s.regs (opaBinary64 s.regs)) (maxidxU64 s.regs)) s)) := by
  simp [execQuant, h]

/-- DEQUANT on a configured state. -/
theorem execDequant_of_valid (s : State) (h : s.regs.status.cfgValid = true) :
    execDequant s = .next (finish (toWord (value s.regs (opaS64 s.regs))) 0 0 0 s) := by
  simp [execDequant, h]

/-- LEVEL on a configured state. -/
theorem execLevel_of_valid (s : State) (h : s.regs.status.cfgValid = true) :
    execLevel s = .next (if maxidxU64 s.regs < opaU64 s.regs then raiseError .range s
      else finish (toWord (level s.regs (opaU64 s.regs))) 0 0 0 s) := by
  simp [execLevel, h]

/-- THRLD on a configured state. -/
theorem execThrld_of_valid (s : State) (h : s.regs.status.cfgValid = true) :
    execThrld s = .next (if thresholdCount s.regs ≤ opaU64 s.regs then raiseError .range s
      else finish (toWord (threshold s.regs (opaU64 s.regs))) 0 0 0 s) := by
  simp [execThrld, h]

/-- A command with a result: it ends with an error, or it writes the four result words over the state `base`. -/
def EndsWithResult (s base : State) (out : StepOutcome) : Prop :=
  (∃ code, code ≠ .noError ∧ out = .next (raiseError code s)) ∨
  (∃ r0 r1 r2 r3, out = .next (finish r0 r1 r2 r3 base))

/-- A command with a result that ends in success wrote its four result words over `base`. -/
theorem EndsWithResult.of_success {s base t : State} {out : StepOutcome} (h : EndsWithResult s base out)
    (ht : out = .next t) (hn : t.regs.status.errCode = .noError) : ∃ r0 r1 r2 r3, t = finish r0 r1 r2 r3 base := by
  obtain ⟨code, hc, he⟩ | ⟨r0, r1, r2, r3, he⟩ := h <;> cases he.symm.trans ht
  · exact absurd hn hc
  · exact ⟨r0, r1, r2, r3, rfl⟩

theorem execQuant_ends (s : State) : ∃ f, EndsWithResult s (writeQuantFlags f s) (execQuant s) := by
  refine ⟨quantFlags (roundedQuotient s.regs (opaBinary64 s.regs)) (maxidxU64 s.regs), ?_⟩
  cases h : s.regs.status.cfgValid
  · exact .inl ⟨.notConfigured, by decide, by simp [execQuant, h]⟩
  · exact .inr ⟨_, _, _, _, execQuant_of_valid s h⟩

theorem execDequant_ends (s : State) : EndsWithResult s s (execDequant s) := by
  cases h : s.regs.status.cfgValid
  · exact .inl ⟨.notConfigured, by decide, by simp [execDequant, h]⟩
  · exact .inr ⟨_, _, _, _, execDequant_of_valid s h⟩

theorem execLevel_ends (s : State) : EndsWithResult s s (execLevel s) := by
  cases h : s.regs.status.cfgValid
  · exact .inl ⟨.notConfigured, by decide, by simp [execLevel, h]⟩
  · rw [execLevel_of_valid s h]
    split
    · exact .inl ⟨.range, by decide, rfl⟩
    · exact .inr ⟨_, _, _, _, rfl⟩

theorem execThrld_ends (s : State) : EndsWithResult s s (execThrld s) := by
  cases h : s.regs.status.cfgValid
  · exact .inl ⟨.notConfigured, by decide, by simp [execThrld, h]⟩
  · rw [execThrld_of_valid s h]
    split
    · exact .inl ⟨.range, by decide, rfl⟩
    · exact .inr ⟨_, _, _, _, rfl⟩

theorem execOnebit_ends (s : State) : EndsWithResult s s (execOnebit s) := .inr ⟨_, _, _, _, rfl⟩

theorem execI2b_ends (w : Nat) (s : State) : EndsWithResult s s (execI2b w s) := by
  unfold execI2b
  split
  · exact .inl ⟨.badWidth, by decide, rfl⟩
  · exact .inr ⟨_, _, _, _, rfl⟩

theorem execB2i_ends (len : Nat) (s : State) : EndsWithResult s s (execB2i len s) := by
  unfold execB2i
  split
  · exact .inl ⟨.badWidth, by decide, rfl⟩
  · exact .inr ⟨_, _, _, _, rfl⟩

theorem execI2t_ends (b : Nat) (s : State) : EndsWithResult s s (execI2t b s) := by
  simp only [execI2t]
  split
  · exact .inl ⟨.badWidth, by decide, rfl⟩
  · split
    · exact .inl ⟨.range, by decide, rfl⟩
    · exact .inr ⟨_, _, _, _, rfl⟩

end Sys2Proof.Machine
end

