-- ==== Sys2Proof/Laws/Operands.lean ====
section
/-! SUPPORT. What the bit-by-bit fields of the codec hold. -/

namespace Sys2Proof.Machine

@[simp] theorem fieldOfBits_zero (bit : Nat → Bool) : fieldOfBits bit 0 = 0 := rfl

theorem fieldOfBits_succ (bit : Nat → Bool) (len : Nat) :
    fieldOfBits bit (len + 1) = fieldOfBits bit len + (bit len).toNat * 2 ^ len := rfl

/-- A field of `len` bits is below `2^len`. -/
theorem fieldOfBits_lt (bit : Nat → Bool) (len : Nat) : fieldOfBits bit len < 2 ^ len := by
  induction len with
  | zero => simp
  | succ n ih =>
    rw [fieldOfBits_succ, pow_succ]
    cases bit n <;> simp <;> omega

/-- Bit `i` of a field of `len` bits is the bit it was built from, and 0 from `len` on. -/
theorem fieldOfBits_testBit (bit : Nat → Bool) (len i : Nat) :
    (fieldOfBits bit len).testBit i = (decide (i < len) && bit i) := by
  induction len with
  | zero => simp
  | succ n ih =>
    have hlt := fieldOfBits_lt bit n
    have heq : fieldOfBits bit (n + 1) = 2 ^ n * (bit n).toNat + fieldOfBits bit n := by
      rw [fieldOfBits_succ, Nat.mul_comm, Nat.add_comm]
    rw [heq, Nat.testBit_two_pow_mul_add _ hlt]
    by_cases hi : i < n
    · have hn : i < n + 1 := by omega
      simp [hi, hn, ih]
    · by_cases he : i = n
      · subst he
        cases bit i <;> simp
      · have hn : ¬ i < n + 1 := by omega
        have hz : ∃ k, i - n = k + 1 := ⟨i - n - 1, by omega⟩
        obtain ⟨k, hk⟩ := hz
        cases bit n <;> simp [hi, hn, hk, Nat.testBit_succ]

end Sys2Proof.Machine
end

