-- ==== Sys2Proof/Laws/PerInstr.lean ====
section
/-! SUPPORT. A fact about every command, one lemma per constructor: the encoder writes a word that the command's own row of the
opcode table spells (30_encoding.md R73, R74). -/

namespace Sys2Proof.Laws.EncodesItsRow

/-- The encoding of a well-formed command is a word of the row that carries its mnemonic. -/
def Statement (i : Instr) : Prop :=
  i.wellFormed = true → ∃ r ∈ opcodeTable, r.mnemonic = i.mnemonic ∧ r.spells (encode i) = true

/-- The mask of a row with a width operand leaves `W` free. -/
theorem width_masked (op : Nat) (h : op = 0x10 ∨ op = 0x11 ∨ op = 0x12) (w : Nat) :
    commandWord op w false &&& 0xFFFFFFFFFFFF00FF#64 = BitVec.ofNat 64 op := by
  have all : ∀ x : BitVec 8,
      (0#47 ++ BitVec.ofBool false ++ x ++ 0x10#8 : Word) &&& 0xFFFFFFFFFFFF00FF#64 = 0x10#64 ∧
      (0#47 ++ BitVec.ofBool false ++ x ++ 0x11#8 : Word) &&& 0xFFFFFFFFFFFF00FF#64 = 0x11#64 ∧
      (0#47 ++ BitVec.ofBool false ++ x ++ 0x12#8 : Word) &&& 0xFFFFFFFFFFFF00FF#64 = 0x12#64 := by
    decide +kernel
  obtain ⟨h0, h1, h2⟩ := all (BitVec.ofNat 8 w)
  rcases h with rfl | rfl | rfl
  · exact h0
  · exact h1
  · exact h2

/-- The mask of CONFIG's row leaves `W` and `FZL` free. -/
theorem config_masked (nb : Nat) (fzl : Bool) :
    commandWord 0x01 nb fzl &&& 0xFFFFFFFFFFFE00FF#64 = 0x1#64 := by
  have all : ∀ (b : Bool) (x : BitVec 8),
      (0#47 ++ BitVec.ofBool b ++ x ++ 0x01#8 : Word) &&& 0xFFFFFFFFFFFE00FF#64 = 0x1#64 := by
    decide +kernel
  exact all fzl (BitVec.ofNat 8 nb)

theorem nop : Statement .nop := fun _ => ⟨⟨"NOP", 0x0#64, 0xFFFFFFFFFFFFFFFF#64⟩, by simp [opcodeTable], rfl, by decide⟩

theorem config (nb : Nat) (fzl : Bool) : Statement (.config nb fzl) := fun _ =>
  ⟨⟨"CONFIG", 0x1#64, 0xFFFFFFFFFFFE00FF#64⟩, by simp [opcodeTable], rfl, by
    simpa [TableRow.spells, encode] using config_masked nb fzl⟩

theorem quant : Statement .quant := fun _ => ⟨⟨"QUANT", 0x2#64, 0xFFFFFFFFFFFFFFFF#64⟩, by simp [opcodeTable], rfl, by decide⟩

theorem dequant : Statement .dequant := fun _ =>
  ⟨⟨"DEQUANT", 0x3#64, 0xFFFFFFFFFFFFFFFF#64⟩, by simp [opcodeTable], rfl, by decide⟩

theorem level : Statement .level := fun _ => ⟨⟨"LEVEL", 0x4#64, 0xFFFFFFFFFFFFFFFF#64⟩, by simp [opcodeTable], rfl, by decide⟩

theorem thrld : Statement .thrld := fun _ => ⟨⟨"THRLD", 0x5#64, 0xFFFFFFFFFFFFFFFF#64⟩, by simp [opcodeTable], rfl, by decide⟩

theorem onebit : Statement .onebit := fun _ =>
  ⟨⟨"ONEBIT", 0x6#64, 0xFFFFFFFFFFFFFFFF#64⟩, by simp [opcodeTable], rfl, by decide⟩

theorem i2b (w : Nat) : Statement (.i2b w) := fun _ =>
  ⟨⟨"I2B", 0x10#64, 0xFFFFFFFFFFFF00FF#64⟩, by simp [opcodeTable], rfl, by
    simpa [TableRow.spells, encode] using width_masked 0x10 (.inl rfl) w⟩

theorem b2i (len : Nat) : Statement (.b2i len) := fun _ =>
  ⟨⟨"B2I", 0x11#64, 0xFFFFFFFFFFFF00FF#64⟩, by simp [opcodeTable], rfl, by
    simpa [TableRow.spells, encode] using width_masked 0x11 (.inr (.inl rfl)) len⟩

theorem i2t (b : Nat) : Statement (.i2t b) := fun _ =>
  ⟨⟨"I2T", 0x12#64, 0xFFFFFFFFFFFF00FF#64⟩, by simp [opcodeTable], rfl, by
    simpa [TableRow.spells, encode] using width_masked 0x12 (.inr (.inr rfl)) b⟩

end Sys2Proof.Laws.EncodesItsRow
end

