-- ==== Sys2Proof/Laws/Step.lean ====
section
/-! SUPPORT. What a step can do, said once. -/

namespace Sys2Proof.Machine

/-- If an outcome followed by the advance of the position is a next state, then so is the outcome. -/
theorem thenAdvance_next (out : StepOutcome) (t : State) (h : thenAdvance out = .next t) :
    ∃ u, out = .next u ∧ t = u.advance := by
  cases out with
  | next u => exact ⟨u, rfl, by simpa [thenAdvance] using h.symm⟩
  | fault f => simp [thenAdvance] at h
  | refused r => simp [thenAdvance] at h

/-- An admitted write to a slot other than `CMD` changes registers only. -/
theorem hostWrite_cases (off : Int) (v : Word) (s : State) :
    (regAt off = some .cmd ∧ hostWrite off v s = writeCmd v s) ∨
    (regAt off ≠ some .cmd ∧ hostWrite off v s = .next (s.withRegs (writeReg (regAt off) v s.regs))) := by
  unfold hostWrite
  split <;> simp_all

/-- A write to `CMD` runs the decoded command or reports `ILLEGAL`. -/
theorem writeCmd_cases (word : Word) (s : State) :
    (∃ i, decode word = .ok i ∧ writeCmd word s = exec i s) ∨
    (∃ e, decode word = .error e ∧ writeCmd word s = .next (raiseError .illegal s)) := by
  unfold writeCmd
  cases h : decode word with
  | ok i => exact .inl ⟨i, rfl, rfl⟩
  | error e => exact .inr ⟨e, rfl, rfl⟩

/-- Everything a step that answers a next state can be: nothing left to do, a read, a write, or the reset line. -/
theorem step_cases (s t : State) (h : step s = .next t) :
    (nextEvent s = none ∧ t = s) ∨
    (∃ off, nextEvent s = some (.access (.read off 64)) ∧ s.inReset = false ∧ accessFault off 64 = none ∧
      t = (s.recordRead (readSlot off s.regs)).advance) ∨
    (∃ off v u, nextEvent s = some (.access (.write off 64 v)) ∧ s.inReset = false ∧ accessFault off 64 = none ∧
      hostWrite off v s = .next u ∧ t = u.advance) ∨
    (∃ asserted, nextEvent s = some (.resetLine asserted) ∧ t = (moveResetLine asserted s).advance) := by
  unfold step at h
  cases he : nextEvent s with
  | none => simp [he] at h; exact .inl ⟨rfl, h.symm⟩
  | some e =>
    simp only [he] at h
    obtain ⟨u, hu, rfl⟩ := thenAdvance_next _ _ h
    cases e with
    | resetLine asserted =>
      simp [performEvent] at hu
      exact .inr (.inr (.inr ⟨asserted, rfl, by rw [hu]⟩))
    | access a =>
      simp only [performEvent, performAccess] at hu
      cases hr : s.inReset with
      | true => simp [hr] at hu
      | false =>
        simp only [hr] at hu
        cases a with
        | read off bits =>
          cases hf : accessFault off bits with
          | some f => simp [hf] at hu
          | none =>
            have hb : bits = 64 := by
              by_contra hb
              simp [accessFault, hb] at hf
            subst hb
            simp [hf, hostRead] at hu
            exact .inr (.inl ⟨off, rfl, rfl, hf, by rw [hu]⟩)
        | write off bits v =>
          cases hf : accessFault off bits with
          | some f => simp [hf] at hu
          | none =>
            have hb : bits = 64 := by
              by_contra hb
              simp [accessFault, hb] at hf
            subst hb
            simp [hf] at hu
            exact .inr (.inr (.inl ⟨off, v, u, rfl, rfl, hf, hu, rfl⟩))

/-- The event that `placeCommand` places is the one the next step performs. -/
theorem nextEvent_placeCommand (word : Word) (s : State) :
    nextEvent (placeCommand word s) = some (commandEvent word) := by
  simp only [nextEvent, placeCommand, placeEvent]
  rw [List.getElem?_append_right (by simp)]
  simp

/-- `withFetchWord` releases the reset line and places the command. -/
theorem withFetchWord_ready (s : State) (nbits w : Nat) :
    (s.withFetchWord nbits w).inReset = false ∧
    nextEvent (s.withFetchWord nbits w) = some (commandEvent (tableWord nbits w)) ∧
    (s.withFetchWord nbits w).regs = s.regs ∧
    (s.withFetchWord nbits w).readValues = s.readValues :=
  ⟨rfl, nextEvent_placeCommand _ s, rfl, rfl⟩

end Sys2Proof.Machine
end

