-- ==== Sys2Proof/Laws/Run.lean ====
section
/-! SUPPORT. Runs: the induction over steps, packaged once, and how a program is consumed. -/

namespace Sys2Proof.Machine

/-- What every step keeps, every run keeps. -/
theorem run_keeps (P : State → Prop) (hstep : ∀ s t, P s → step s = .next t → P t) (n : Nat) (s t : State) (hs : P s)
    (hrun : Host.Core.run Sys2Proof.core n s = .next t) : P t := by
  induction n generalizing s with
  | zero => cases hrun; exact hs
  | succ n ih =>
    simp only [Host.Core.run] at hrun
    cases h : Sys2Proof.core.step s with
    | next u => rw [h] at hrun; exact ih u (hstep s u hs h) hrun
    | fault f => rw [h] at hrun; cases hrun
    | refused r => rw [h] at hrun; cases hrun

/-- A run of `m + n` steps is a run of `m` and then one of `n`. -/
theorem run_add (m n : Nat) (s t : State) (h : Host.Core.run Sys2Proof.core m s = .next t) :
    Host.Core.run Sys2Proof.core (m + n) s = Host.Core.run Sys2Proof.core n t := by
  induction m generalizing s with
  | zero => cases h; rw [Nat.zero_add]
  | succ m ih =>
    rw [Nat.succ_add]
    simp only [Host.Core.run] at h ⊢
    cases hs : Sys2Proof.core.step s with
    | next u => rw [hs] at h; exact ih u h
    | fault f => rw [hs] at h; cases h
    | refused r => rw [hs] at h; cases h

/-- The next event is the first of the remaining ones. -/
theorem nextEvent_eq_head (s : State) : nextEvent s = (remaining s).head? := by
  simp [nextEvent, remaining]

/-- Advancing drops the first of the remaining events. -/
theorem remaining_advance (s : State) : remaining s.advance = (remaining s).tail := by
  simp [remaining, State.advance, List.tail_drop]

end Sys2Proof.Machine
end

