-- ==== Sys2Proof/Laws/Window.lean ====
section
/-! SUPPORT. Where each register stands in the window. -/

namespace Sys2Proof.Machine

/-- Every register is found at its own offset. -/
@[simp] theorem regAt_offset (g : Reg) : regAt g.offset = some g := by
  cases g <;> decide

/-- An offset that holds a register is that register's offset. -/
theorem regAt_eq_some (off : Int) (g : Reg) : regAt off = some g ↔ off = g.offset := by
  constructor
  · intro h
    have := List.find?_some h
    simpa using (beq_iff_eq.mp this).symm
  · rintro rfl
    exact regAt_offset g

/-- An access is admitted exactly if it is 64 bits wide, aligned and inside the window. -/
theorem accessFault_eq_none (off : Int) (bits : Nat) :
    accessFault off bits = none ↔ bits = 64 ∧ off % 8 = 0 ∧ 0 ≤ off ∧ off < 256 := by
  unfold accessFault Config.window
  split_ifs with h1 h2 h3 <;> simp_all
  omega

/-- The offset of an address is relative to the window base. -/
theorem offsetOfAddress_base (off : Nat) : offsetOfAddress (Config.sqleBase + off) = off := by
  simp [offsetOfAddress]

end Sys2Proof.Machine
end

