-- ==== Sys2Proof/Tests/Slice0.lean ====
section
/-! SUPPORT. Tests whose expected results are the vectors of 95_test_vectors.md or words written out from 30_encoding.md, one step
each, and for every statement with hypotheses a witness that meets them. -/

namespace Sys2Proof.Tests

open Sys2Proof.Machine

/- One theorem after another: a `decide +kernel` waits for every earlier declaration to be checked, so elaborated side by side the
theorems of this file would hold one waiting thread, with its whole stack, each. -/
set_option Elab.async false

/-! ### Small states -/

/-- The state after reset with `OPA` and `OPB` written. -/
def fresh (opa opb : Word) : State := { State.reset with regs := { Registers.reset with opa := opa, opb := opb } }

/-- Cfg A of 95_test_vectors.md (3 bits from -4 to 2), with `OPA` written. -/
def cfgA (opa : Word) : State :=
  { State.reset with
    regs := { Registers.reset with
      status := { Status.reset with cfgValid := true }
      opa := opa
      nbits := 3
      xmin := 0xC010000000000000#64
      xmax := 0x4000000000000000#64
      delta := 0x3FE8000000000000#64
      xminq := 0xC00D000000000000#64
      maxidx := 7 } }

/-- Cfg D of 95_test_vectors.md (2 bits from 0 to 0.3), with `OPA` written. -/
def cfgD (opa : Word) : State :=
  { State.reset with
    regs := { Registers.reset with
      status := { Status.reset with cfgValid := true }
      opa := opa
      nbits := 2
      xmax := 0x3FD3333333333333#64
      delta := 0x3FB3333333333333#64
      xminq := 0x3FA3333333333333#64
      maxidx := 3 } }

/-- A state whose host program is the given one, from its start. -/
def running (s : State) (program : List HostEvent) : State := { s with program := program }

/-- A state held in reset. -/
def heldInReset (program : List HostEvent) : State := { State.reset with inReset := true, program := program }

/-- The registers an outcome leaves, if it is a next state. -/
def regsOf : StepOutcome → Option Registers
  | .next t => some t.regs
  | _ => none

/-- `STATUS`, `RES0`, `RES1` after a command. -/
def after (i : Instr) (s : State) : Option (Word × Word × Word) :=
  (regsOf (exec i s)).map (fun r => (statusWord r.status, r.res0, r.res1))

/-- `STATUS` and all four result words after a command. -/
def after4 (i : Instr) (s : State) : Option (Word × Word × Word × Word × Word) :=
  (regsOf (exec i s)).map (fun r => (statusWord r.status, r.res0, r.res1, r.res2, r.res3))

/-! ### Well-formedness: the check refuses a width that its 8-bit field cannot hold -/

theorem test_config_width_refused : (Instr.config 256 false).wellFormed = false := by decide

theorem test_i2b_width_refused : (Instr.i2b 256).wellFormed = false := by decide

theorem test_b2i_width_refused : (Instr.b2i 300).wellFormed = false := by decide

theorem test_i2t_width_refused : (Instr.i2t 256).wellFormed = false := by decide

/-! ### Decoding: words written out field by field from 30_encoding.md R70 and R73 (`RSV`, `FZL`, `W`, `OP`) -/

theorem test_decode_nop : (decode (0#47 ++ 0#1 ++ 0x00#8 ++ 0x00#8)).toOption = some .nop := by decide

theorem test_decode_config : (decode (0#47 ++ 1#1 ++ 0x20#8 ++ 0x01#8)).toOption = some (.config 32 true) := by decide

theorem test_decode_quant : (decode (0#47 ++ 0#1 ++ 0x00#8 ++ 0x02#8)).toOption = some .quant := by decide

theorem test_decode_dequant : (decode (0#47 ++ 0#1 ++ 0x00#8 ++ 0x03#8)).toOption = some .dequant := by decide

theorem test_decode_level : (decode (0#47 ++ 0#1 ++ 0x00#8 ++ 0x04#8)).toOption = some .level := by decide

theorem test_decode_thrld : (decode (0#47 ++ 0#1 ++ 0x00#8 ++ 0x05#8)).toOption = some .thrld := by decide

theorem test_decode_onebit : (decode (0#47 ++ 0#1 ++ 0x00#8 ++ 0x06#8)).toOption = some .onebit := by decide

theorem test_decode_i2b : (decode (0#47 ++ 0#1 ++ 0x40#8 ++ 0x10#8)).toOption = some (.i2b 64) := by decide

theorem test_decode_b2i : (decode (0#47 ++ 0#1 ++ 0x03#8 ++ 0x11#8)).toOption = some (.b2i 3) := by decide

theorem test_decode_i2t : (decode (0#47 ++ 0#1 ++ 0x08#8 ++ 0x12#8)).toOption = some (.i2t 8) := by decide

/-- V-CMD-1 to V-CMD-9: reserved opcodes, a width or `FZL` where unused, reserved bits. -/
theorem test_decode_illegal :
    ([0x07, 0x0F, 0x13, 0xFF, 0x102, 0x10002, 0x10010, 0x20000, 0x8000000000000000, 0x20301, 0x100] : List Nat).all
      (fun w => (decodeTableWord 64 w).isNone) = true := by decide

/-! ### Commands: the vectors of 95_test_vectors.md -/

/-- V-CMD-10. -/
theorem test_nop_keeps_sticky :
    after .nop { State.reset with
      regs := { Registers.reset with status := { Status.reset with errCode := .illegal, errSticky := true } } } =
      some (0x002#64, 0, 0) := by decide

/-- V-CFG-6: 32 bits, inexact `XMINQ`. -/
theorem test_config_32_bits :
    (regsOf (exec (.config 32 false) (fresh 0xC010000000000000#64 0x4000000000000000#64))).map
      (fun r => (statusWord r.status, r.delta, r.xminq, r.maxidx)) =
      some (0x1#64, 0x3E18000000000000#64, 0xC00FFFFFFFE80000#64, 0xFFFFFFFF#64) := by decide +kernel

/-- V-CFG-18: `delta` rounds to 0. -/
theorem test_config_vanishing_delta : after (.config 1 false) (fresh 0 1) = some (0x202#64, 0, 0) := by decide +kernel

/-- V-Q-24: an inexact quotient above the top level saturates. -/
theorem test_quant_saturates_high :
    after .quant (cfgD 0x3FD3333333333333#64) = some (0x9#64, 0x3FD0CCCCCCCCCCCC#64, 3) := by decide +kernel

/-- V-Q-9: a tie that rounds to -0.0 is not below 0. -/
theorem test_quant_negative_zero :
    after .quant (cfgA 0xC010000000000000#64) = some (0x1#64, 0xC00D000000000000#64, 0) := by decide +kernel

/-- V-DQ-4: a negative index extrapolates. -/
theorem test_dequant_negative :
    after .dequant (cfgA 0xFFFFFFFFFFFFFFFF#64) = some (0x1#64, 0xC011800000000000#64, 0) := by decide +kernel

/-- V-DQ-8: 2^53 + 1 rounds to even. -/
theorem test_dequant_rounds_index :
    after .dequant (cfgA 0x0020000000000001#64) = some (0x1#64, 0x4337FFFFFFFFFFFC#64, 0) := by decide +kernel

/-- V-LVL-7: a level that is not an exact decimal. -/
theorem test_level_inexact : after .level (cfgD 1) = some (0x1#64, 0x3FBCCCCCCCCCCCCC#64, 0) := by decide +kernel

/-- V-LVL-2: one past the table. -/
theorem test_level_range : after .level (cfgA 8) = some (0x403#64, 0, 0) := by decide +kernel

/-- V-THR-1, the last reported threshold. -/
theorem test_thrld_last : after .thrld (cfgA 5) = some (0x1#64, 0x3FE0000000000000#64, 0) := by decide +kernel

/-- V-THR-2: the threshold between the two highest levels is not reported. -/
theorem test_thrld_missing_last : after .thrld (cfgA 6) = some (0x403#64, 0, 0) := by decide +kernel

/-- V-OB-4: -0 and +0 compare equal. -/
theorem test_onebit_zeros :
    after .onebit { State.reset with regs := { Registers.reset with thresh := 0x8000000000000000#64 } } = some (0, 0, 0) := by
  decide +kernel

/-- V-OB-8: an infinity above a huge finite threshold. -/
theorem test_onebit_infinity :
    after .onebit { State.reset with
      regs := { Registers.reset with opa := 0x7FF0000000000000#64, thresh := 0x7FE1CCF385EBC8A0#64 } } = some (0, 1, 0) := by
  decide +kernel

/-- V-I2B-6: two's complement of -2 in four bits. -/
theorem test_i2b_negative : after (.i2b 4) (fresh 0xFFFFFFFFFFFFFFFE#64 0) = some (0, 0xE, 0) := by decide +kernel

/-- V-I2B-14. -/
theorem test_i2b_bad_width : after (.i2b 65) (fresh 65 0) = some (0x502#64, 0, 0) := by decide +kernel

/-- V-B2I-4: high bits are ignored. -/
theorem test_b2i_ignores_high_bits : after (.b2i 4) (fresh 0xFF 0) = some (0, 0xF, 0) := by decide +kernel

/-- V-B2I-7: all 64 bits, unsigned. -/
theorem test_b2i_full_width :
    after (.b2i 64) (fresh 0xFFFFFFFFFFFFFFFF#64 0) = some (0, 0xFFFFFFFFFFFFFFFF#64, 0) := by decide +kernel

/-- V-I2T-17: a run of ones across two result words. -/
theorem test_i2t_across_words :
    after4 (.i2t 8) (fresh 100 0) = some (0, 0, 0, 0xFFFFFFFFF0000000#64, 0xFFFFFFFFFFFFFFFF#64) := by decide +kernel

/-- V-I2T-25: `BAD_WIDTH` comes before `RANGE`. -/
theorem test_i2t_bad_width_first : after (.i2t 9) (fresh 1000 0) = some (0x502#64, 0, 0) := by decide +kernel

/-! ### Accesses -/

/-- V-CMD-11: the host clears `ERR_STICKY` and keeps `ERR_CODE`. -/
theorem test_status_write_one_to_clear :
    (regsOf (step (running { State.reset with
      regs := { Registers.reset with status := { Status.reset with errCode := .illegal, errSticky := true } } }
      [clearErrors]))).map (fun r => statusWord r.status) = some 0x600#64 := by decide

/-- V-CMD-14: a write to a read-only register is ignored. -/
theorem test_read_only_register :
    (regsOf (step (running State.reset [asmWrite .res0 5]))) = some Registers.reset := by decide

/-- 30_encoding.md R77: -1.4 converts to the pattern of 95_test_vectors.md V-Q-1. -/
theorem test_decimal_literal :
    toWord (literalBinary64 { neg := true, digits := 14, exponent := -1 }) = 0xBFF6666666666666#64 := by decide +kernel

/-- The command that the interface places runs in the next step. -/
theorem test_placed_command_runs :
    (regsOf (step (State.reset.withFetchWord 64 0x0000000000000002))).map (fun r => statusWord r.status) = some 0x302#64 := by
  decide

/-! ### Witnesses: for every statement with hypotheses, states and operands that meet them -/

theorem witness_DecodeOfEncode : (Instr.config 255 true).wellFormed = true ∧ (Instr.i2t 0).wellFormed = true := by decide

theorem witness_OpcodeTableSpellsTheDecodedCommand :
    (⟨"I2T", 0x12#64, 0xFFFFFFFFFFFF00FF#64⟩ : TableRow) ∈ opcodeTable ∧
    (⟨"I2T", 0x12#64, 0xFFFFFFFFFFFF00FF#64⟩ : TableRow).spells 0xFF12#64 = true ∧
    opcodeTable.all (fun r => !r.spells 0x10012#64) = true := by decide

theorem witness_EncodeOfDecode : decode 0x1FF01#64 = .ok (.config 255 true) ∧ decode 0x12#64 = .ok (.i2t 0) := ⟨rfl, rfl⟩

/-- One word for each line of 30_encoding.md R75, at the ends of its ranges. -/
theorem witness_ReservedWordsAreIllegal :
    decode 0x8000000000000000#64 = .error .reservedBits ∧ decode 0x20000#64 = .error .reservedBits ∧
    decode 0x07#64 = .error .unknownOpcode ∧ decode 0x0F#64 = .error .unknownOpcode ∧ decode 0x13#64 = .error .unknownOpcode ∧
    decode 0xFF#64 = .error .unknownOpcode ∧ decode 0x100#64 = .error .unusedWidth ∧ decode 0xFF06#64 = .error .unusedWidth ∧
    decode 0x10012#64 = .error .unusedFzl := ⟨rfl, rfl, rfl, rfl, rfl, rfl, rfl, rfl, rfl⟩

theorem witness_StepRunsTheDecodedCommand :
    CommandArrives (placeCommand 0x2#64 State.reset) 0x2#64 ∧ decode 0x2#64 = .ok .quant ∧
    (∃ t, exec .quant (placeCommand 0x2#64 State.reset) = .next t) ∧
    CommandArrives (placeCommand 0x7#64 State.reset) 0x7#64 ∧ decode 0x7#64 = .error .unknownOpcode :=
  ⟨by decide, rfl, ⟨_, rfl⟩, by decide, rfl⟩

theorem witness_IllegalOnlyRecordsTheError :
    CommandArrives (placeCommand 0x7#64 (cfgA 0)) 0x7#64 ∧ (decode 0x7#64).toOption = none ∧
    State.reset.regs = Registers.reset := by decide

/-- The admitted end of the window, and each way of missing it. -/
theorem witness_OnlyAdmittedAccessesRun :
    (running State.reset [.access (.read 0xF8 64)]).inReset = false ∧
    nextEvent (running State.reset [.access (.read 0xF8 64)]) = some (.access (.read 0xF8 64)) ∧
    nextEvent (running State.reset [.access (.write 0x00 64 0)]) = some (.access (.write 0x00 64 0)) ∧
    accessFault 0xF8 64 = none ∧ accessFault 0x00 64 = none ∧ accessFault 0x10 32 = some .busErrorWidth ∧
    accessFault 0x0C 64 = some .busErrorMisaligned ∧ accessFault 0x100 64 = some .busErrorOutsideWindow ∧
    accessFault (-8) 64 = some .busErrorOutsideWindow := by decide

theorem witness_StepFaultsOnlyOnABusError :
    step (running State.reset [.access (.read 0x100 64)]) = .fault .busErrorOutsideWindow ∧
    step (heldInReset [.access (.read 0x00 64)]) = .fault .busErrorInReset := ⟨rfl, rfl⟩

/-- A read and a write of the first and the last named slot and of the first and the last reserved one. -/
theorem witness_HostAccessesHaveTheTableEffects :
    nextEvent (running State.reset [hostReadEvent 0x00]) = some (.access (.read 0x00 64)) ∧
    nextEvent (running State.reset [hostReadEvent 0x70]) = some (.access (.read 0x70 64)) ∧
    nextEvent (running State.reset [hostWriteEvent 0x08 2]) = some (.access (.write 0x08 64 2)) ∧
    nextEvent (running State.reset [hostWriteEvent 0x78 2]) = some (.access (.write 0x78 64 2)) ∧
    nextEvent (running State.reset [hostReadEvent 0xF8]) = some (.access (.read 0xF8 64)) := by decide

theorem witness_ReadAfterWriteReturnsTheValue :
    let s := running State.reset [hostWriteEvent (Reg.offset .thresh) 9, hostReadEvent (Reg.offset .thresh)]
    s.inReset = false ∧ s.program[s.pos]? = some (hostWriteEvent (Reg.offset .thresh) 9) ∧
    s.program[s.pos + 1]? = some (hostReadEvent (Reg.offset .thresh)) := by decide

theorem witness_WindowBytesAreLittleEndian : windowByte 0x10 7 (fresh 0x0100000000000000#64 0).regs = 1 := by decide

theorem witness_NopOnlyClearsTheErrorCode :
    (raiseError .illegal State.reset).regs.status.errCode = .illegal ∧
    (raiseError .illegal State.reset).regs.status.errSticky = true := by decide

/-- One bit and 32 bits, the ends of the accepted range. -/
theorem witness_ConfigCommitsAValidConfiguration :
    ¬ BadConfiguration 1 (ofWord 0xC010000000000000#64) (ofWord 0x4000000000000000#64) ∧
    ¬ BadConfiguration 32 (ofWord 0xC010000000000000#64) (ofWord 0x4000000000000000#64) := by decide +kernel

/-- V-CFG-9, V-CFG-10, V-CFG-12, V-CFG-13, V-CFG-16, V-CFG-17, V-CFG-18, V-CFG-19: each condition of 41_quantizer.md R113. -/
theorem witness_InvalidConfigurationIsRejected :
    BadConfiguration 0 (ofWord 0xC010000000000000#64) (ofWord 0x4000000000000000#64) ∧
    BadConfiguration 33 (ofWord 0xC010000000000000#64) (ofWord 0x4000000000000000#64) ∧
    BadConfiguration 3 (ofWord 0x7FF8000000000000#64) (ofWord 0x3FF0000000000000#64) ∧
    BadConfiguration 3 (ofWord 0) (ofWord 0x7FF0000000000000#64) ∧
    BadConfiguration 3 (ofWord 0x3FF0000000000000#64) (ofWord 0x3FF0000000000000#64) ∧
    BadConfiguration 3 (ofWord 0x8000000000000000#64) (ofWord 0) ∧
    BadConfiguration 1 (ofWord 0) (ofWord 1) ∧
    BadConfiguration 1 (ofWord 0xFFEFFFFFFFFFFFFF#64) (ofWord 0x7FEFFFFFFFFFFFFF#64) := by decide +kernel

theorem witness_QuantizerCommandsNeedAConfiguration :
    State.reset.regs.status.cfgValid = false ∧
    (∃ t, exec .onebit State.reset = .next t) ∧ (∃ t, exec (.i2t 9) State.reset = .next t) := ⟨rfl, ⟨_, rfl⟩, ⟨_, rfl⟩⟩

/-- One input for each of QUANT's four cases: V-Q-12, V-Q-11, V-Q-8, V-Q-9. -/
theorem witness_QuantClampsTheRoundedQuotient :
    let rounded := fun x => rint (fdiv (fsub (ofWord x) (ofWord (cfgA x).regs.xminq)) (ofWord (cfgA x).regs.delta))
    (cfgA 0).regs.status.cfgValid = true ∧
    isnan (rounded 0x7FF8000000000000#64) = true ∧
    (isnan (rounded 0xC08F600000000000#64) = false ∧ flt (rounded 0xC08F600000000000#64) (.fin false 0) = true) ∧
    (isnan (rounded 0x4000000000000000#64) = false ∧ flt (rounded 0x4000000000000000#64) (.fin false 0) = false ∧
      fgt (rounded 0x4000000000000000#64) (u2f 7) = true) ∧
    (isnan (rounded 0xC010000000000000#64) = false ∧ flt (rounded 0xC010000000000000#64) (.fin false 0) = false ∧
      fgt (rounded 0xC010000000000000#64) (u2f 7) = false) := by decide +kernel

/-- Cfg A and Cfg D meet the invariant of 10_state.md R35. It is the witness of every statement that assumes it. -/
theorem witness_ConfigInvariant :
    ConfigInvariant (cfgA 0).regs ∧ (cfgA 0).regs.status.cfgValid = true ∧ ConfigInvariant (cfgD 0).regs := by decide +kernel

theorem witness_QuantSaturatesInfinitiesAndNan :
    ConfigInvariant (cfgA 0x7FF0000000000000#64).regs ∧
    ofWord (cfgA 0x7FF0000000000000#64).regs.opa = .inf false ∧ ofWord (cfgA 0xFFF0000000000000#64).regs.opa = .inf true ∧
    isnan (ofWord (cfgA 0x7FF8000000000000#64).regs.opa) = true ∧
    (cfgA 0xC00D000000000000#64).regs.opa = (cfgA 0xC00D000000000000#64).regs.xminq ∧
    isnan (ofWord (cfgA 0).regs.opa) = false := by decide +kernel

theorem witness_QuantAnswersALevelOfTheTable :
    ConfigInvariant (cfgA 0xC00A000000000000#64).regs ∧ (cfgA 0xC00A000000000000#64).regs.status.cfgValid = true := by
  decide +kernel

theorem witness_DequantComputesTheFormula : (cfgA 0x8000000000000000#64).regs.status.cfgValid = true := by decide

theorem witness_DequantIsNeverNan :
    ConfigInvariant (cfgA 0x7FFFFFFFFFFFFFFF#64).regs ∧ (cfgA 0x7FFFFFFFFFFFFFFF#64).regs.status.cfgValid = true := by
  decide +kernel

/-- The last position of the table and the first beyond it. -/
theorem witness_LevelReadsOneEntry :
    (cfgA 7).regs.status.cfgValid = true ∧ (cfgA 7).regs.opa.toNat ≤ (cfgA 7).regs.maxidx.toNat ∧
    (cfgA 8).regs.maxidx.toNat < (cfgA 8).regs.opa.toNat := by decide

theorem witness_LevelAndDequantAgree :
    ConfigInvariant (cfgA 7).regs ∧ (cfgA 7).regs.status.cfgValid = true ∧
    (cfgA 7).regs.opa.toNat ≤ (cfgA 7).regs.maxidx.toNat := by decide +kernel

/-- The last reported threshold, the first position beyond it, and a one-bit configuration. -/
theorem witness_ThrldReadsOneThreshold :
    (cfgA 5).regs.status.cfgValid = true ∧ (cfgA 5).regs.opa.toNat + 2 < 2 ^ (cfgA 5).regs.nbits.toNat ∧
    2 ^ (cfgA 6).regs.nbits.toNat ≤ (cfgA 6).regs.opa.toNat + 2 ∧
    ((cfgA 0).regs.withConfig 1 0 0 0 0 1).nbits = 1 := by decide

/-- V-OB-10, V-OB-11, V-OB-9, V-OB-6 and V-OB-7. -/
theorem witness_OnebitComparesStrictly :
    fgt (ofWord 0x4004000000000000#64) (ofWord 0x4000000000000000#64) = true ∧
    fgt (ofWord 0x4000000000000000#64) (ofWord 0x4004000000000000#64) = false ∧
    State.reset.regs.opa = State.reset.regs.thresh ∧ isnan (ofWord 0x7FF8000000000000#64) = true := by decide +kernel

/-- Each width clause at the ends of its range: 0 and 64 are accepted, 65 is not. -/
theorem witness_I2bKeepsTheLowBits : 0 ≤ 64 ∧ 64 ≤ 64 ∧ 64 < 65 ∧ after (.i2b 64) (fresh 3 0) = some (0, 3, 0) := by
  decide +kernel

theorem witness_I2bVectorIsMsbFirst :
    2 < 3 ∧ 3 ≤ 64 ∧ vectorOf 3 (intToBits 6 3) = [true, true, false] := by decide +kernel

theorem witness_B2iReadsTheLowBits : 0 ≤ 64 ∧ 64 ≤ 64 ∧ 64 < 65 ∧ after (.b2i 65) (fresh 5 0) = some (0x502#64, 0, 0) := by
  decide +kernel

theorem witness_BitCodecRoundTrip :
    3 ≤ 64 ∧ 0 ≤ (fresh 5 0).regs.opa.toInt ∧ (fresh 5 0).regs.opa.toInt < 2 ^ 3 := by decide

/-- `b = 8` with `k = 2^b`, `b = 0` with `k = 0`, a width beyond 8, and both ends of the range of `k`. -/
theorem witness_I2tBuildsTheThermometerField :
    ((8 : Nat) ≤ 8 ∧ 0 ≤ (fresh 256 0).regs.opa.toInt ∧ (fresh 256 0).regs.opa.toInt ≤ 2 ^ 8) ∧
    (0 ≤ (fresh 0 0).regs.opa.toInt ∧ (fresh 0 0).regs.opa.toInt ≤ 2 ^ 0) ∧ (8 : Nat) < 9 ∧
    (fresh 0xFFFFFFFFFFFFFFFF#64 0).regs.opa.toInt < 0 ∧ 2 ^ 8 < (fresh 257 0).regs.opa.toInt := by decide

theorem witness_ThermometerIsOnesThenZeros :
    (8 : Nat) ≤ 8 ∧ 0 ≤ (fresh 100 0).regs.opa.toInt ∧ (fresh 100 0).regs.opa.toInt ≤ 2 ^ 8 := by decide

/-- An error end: the hypotheses of the error frame, and of the first-error rule. -/
theorem witness_ErrorChangesOnlyCodeAndSticky :
    exec .quant State.reset = .next (raiseError .notConfigured State.reset) ∧
    (raiseError .notConfigured State.reset).regs.status.errCode ≠ .noError := ⟨rfl, by decide⟩

/-- Successful ends: NOP, ONEBIT, I2T with `b = 6`, `b = 7` and `b = 8`, QUANT, CONFIG. -/
theorem witness_SuccessWritesEveryResultWord :
    exec .nop State.reset = .next (finishNores State.reset) ∧ (finishNores State.reset).regs.status.errCode = .noError ∧
    after .onebit State.reset = some (0, 0, 0) ∧ after (.i2t 6) (fresh 64 0) = some (0, 0xFFFFFFFFFFFFFFFF#64, 0) ∧
    after (.i2t 7) (fresh 128 0) = some (0, 0xFFFFFFFFFFFFFFFF#64, 0xFFFFFFFFFFFFFFFF#64) ∧
    after4 (.i2t 8) (fresh 256 0) = some (0, 0xFFFFFFFFFFFFFFFF#64, 0xFFFFFFFFFFFFFFFF#64, 0xFFFFFFFFFFFFFFFF#64,
      0xFFFFFFFFFFFFFFFF#64) ∧
    after .quant (cfgA 0x3FFA000000000000#64) = some (1, 0x3FFA000000000000#64, 7) ∧
    after (.config 3 false) (fresh 0xC010000000000000#64 0x4000000000000000#64) = some (1, 0, 0) :=
  ⟨rfl, rfl, by decide +kernel, by decide +kernel, by decide +kernel, by decide +kernel, by decide +kernel, by decide +kernel⟩

theorem witness_CommandsPreserveTheOperands :
    (∃ t, exec .quant (cfgA 0) = .next t) ∧ exec (.i2b 65) State.reset = .next (raiseError .badWidth State.reset) :=
  ⟨⟨_, rfl⟩, rfl⟩

/-- A successful and a failing QUANT, a successful and a failing CONFIG, and a command that is neither. -/
theorem witness_CommandsWriteOnlyTheirFlags :
    (regsOf (exec .quant (cfgA 0))).map (fun r => r.status.errCode) = some .noError ∧
    (regsOf (exec (.config 3 false) (fresh 0xC010000000000000#64 0x4000000000000000#64))).map (fun r => r.status.errCode) =
      some .noError ∧
    exec .quant State.reset = .next (raiseError .notConfigured State.reset) ∧
    exec (.config 3 true) (cfgA 0) = .next (raiseError .unsupported (cfgA 0)) ∧
    Instr.nop ≠ .quant ∧ (∀ nb fzl, Instr.nop ≠ .config nb fzl) ∧ exec .nop (cfgA 0) = .next (finishNores (cfgA 0)) :=
  ⟨by decide +kernel, by decide +kernel, rfl, rfl, by decide, fun _ _ => by simp, rfl⟩

theorem witness_FirstApplicableErrorIsReported :
    (decode 0x102#64).toOption = none ∧ writeCmd 0x102#64 State.reset = .next (raiseError .illegal State.reset) ∧
    firstError (.i2t 9) (fresh 1000 0).regs = .badWidth ∧ firstError .level State.reset.regs = .notConfigured :=
  ⟨rfl, rfl, by decide, by decide⟩

/-- Two states that agree on a command's inputs and differ in their result words. -/
theorem witness_CommandsAreAFunctionOfTheirInputs :
    sameInputs (finish 1 2 3 4 State.reset).regs State.reset.regs ∧
    results (finish 1 2 3 4 State.reset).regs ≠ results State.reset.regs ∧
    (∃ t, exec .onebit (finish 1 2 3 4 State.reset) = .next t) ∧ (∃ t, exec .onebit State.reset = .next t) :=
  ⟨rfl, by decide, ⟨_, rfl⟩, ⟨_, rfl⟩⟩

/-- An unconfigured state whose next access is the CONFIG of Cfg A. -/
def configuring : State := placeCommand 0x301#64 (fresh 0xC010000000000000#64 0x4000000000000000#64)

/-- A CONFIG written to `CMD` answers a next state, changes the configuration and sets `CFG_VALID`. -/
theorem witness_OnlyConfigOrResetChangesTheConfiguration :
    (regsOf (step configuring)).map (fun r => (configuration r == configuration configuring.regs, r.status.cfgValid)) =
      some (false, true) ∧ configuring.regs.status.cfgValid = false := by decide +kernel

theorem witness_CfgValidMovesOnlyByConfigOrReset :
    let s := placeCommand 0x7#64 (cfgA 0)
    (∃ t, step s = .next t) ∧ (∀ asserted, nextEvent s ≠ some (.resetLine asserted)) ∧ s.regs.status.cfgValid = true :=
  ⟨⟨_, rfl⟩, by decide, rfl⟩

theorem witness_ErrStickyStaysUntilCleared :
    let s := running (raiseError .illegal State.reset) [clearErrors]
    (∃ t, step s = .next t ∧ t.regs.status.errSticky = false) ∧ s.regs.status.errSticky = true := ⟨⟨_, rfl, rfl⟩, rfl⟩

/-- A step from a state that meets the invariant, one that commits a configuration. -/
theorem witness_EveryStepKeepsTheInvariant :
    configuring.Inv ∧ (regsOf (step configuring)).isSome = true ∧ (cfgA 0).Inv :=
  ⟨fun _ => by decide +kernel, by decide +kernel, fun _ => by decide +kernel⟩

theorem witness_ReleasedResetRestoresEveryRegister :
    (heldInReset [.resetLine false]).inReset = true ∧
    nextEvent (heldInReset [.resetLine false]) = some (.resetLine false) ∧
    nextEvent (heldInReset [hostReadEvent 0x00]) = some (.access (.read 0x00 64)) := by decide

theorem witness_AdmittedRunsReachTheirEnd :
    let s := running State.reset (assemble [.wr .opa 5, .command (.i2b 3), .rd .res0])
    s.inReset = false ∧ s.pos = 0 ∧ isHostProgram s.program = true := by decide

theorem witness_QuantizeArrayReadsEveryPair :
    let s := running (cfgA 0) (expandLine (.quantizeArray [0xBFF6666666666666#64, 0]) ++ [asmRead .status])
    s.inReset = false ∧ s.regs.status.cfgValid = true ∧
    remaining s = expandLine (.quantizeArray [0xBFF6666666666666#64, 0]) ++ [asmRead .status] := by decide

/-- The levels and the thresholds of Cfg A, and the empty threshold list of a one-bit configuration. -/
theorem witness_TableReadsGiveTheWholeTable :
    (running (cfgA 0) (expandLine (.getLevels 7))).regs.nbits.toNat ≤ 32 ∧
    remaining (running (cfgA 0) (expandLine (.getLevels 7))) = expandLine (.getLevels (cfgA 0).regs.maxidx.toNat) ++ [] ∧
    remaining (running (cfgA 0) (expandLine (.getThresholds 3))) =
      expandLine (.getThresholds (cfgA 0).regs.nbits.toNat) ++ [] ∧
    expandLine (.getThresholds 1) = [] := by decide

/-- Widths at both sides of the limit 8, and the largest of the field. -/
theorem witness_ThermoMatrixReportsAnyBadRow :
    (running State.reset (expandLine (.intsToThermoMatrix [3, 300] 8))).inReset = false ∧
    remaining (running State.reset (expandLine (.intsToThermoMatrix [3, 300] 8))) =
      expandLine (.intsToThermoMatrix [3, 300] 8) ++ [] ∧
    remaining (running State.reset (expandLine (.intsToThermoMatrix [3] 9))) = expandLine (.intsToThermoMatrix [3] 9) ++ [] ∧
    (255 : Nat) ≤ 255 ∧ expandLine (.intsToThermoMatrix [] 255) = [clearErrors, asmRead .status] := by decide

theorem witness_MergedProgramsKeepEachHostsOrder :
    Interleaves [asmRead .res0, asmRead .res1] [clearErrors] [asmRead .res0, clearErrors, asmRead .res1] :=
  .first _ _ _ _ (.second _ _ _ _ (.first _ _ _ _ .done))

theorem witness_CommittedDeltaIsPositiveAndFinite :
    ConfigInvariant (cfgD 0).regs ∧ (cfgD 0).regs.status.cfgValid = true := by decide +kernel

/-- A subnormal result, which the pattern and the number agree on. -/
theorem witness_PatternsAndNumbersAgree : 0 < 2 ∧ toWord (roundTo true 3 2) = 0x8000000000000002#64 := by decide +kernel

theorem witness_LevelsNeverDecrease :
    ConfigInvariant (cfgA 0).regs ∧ (cfgA 0).regs.status.cfgValid = true ∧ 6 < (cfgA 0).regs.maxidx.toNat := by decide +kernel

/-- A tie: 2^53 + 1 units lie half-way between two magnitudes. -/
theorem witness_RoundingIsToNearestTiesToEven :
    0 < 1 ∧ Representable (2 ^ 53) ∧ Representable (2 ^ 53 + 2) ∧ roundUnits (2 ^ 53 + 1) 1 = 2 ^ 53 ∧
    distanceFrom (2 ^ 53 + 1) 1 (2 ^ 53 + 2) = distanceFrom (2 ^ 53 + 1) 1 (2 ^ 53) := by decide +kernel

/-- The boundary of overflow, and one unit below it. -/
theorem witness_OverflowRoundsToInfinity :
    0 < 1 ∧ roundTo true ((2 ^ 54 - 1) * 2 ^ 2044) 1 = .inf true ∧
    roundTo true ((2 ^ 54 - 1) * 2 ^ 2044 - 1) 1 = .fin true ((2 ^ 53 - 1) * 2 ^ 2045) := by decide +kernel

/-- Both ends of the exact range of integers. -/
theorem witness_IntegersToTwoTo53AreExact :
    (-(2 : Int) ^ 53).natAbs ≤ 2 ^ 53 ∧ i2f (-(2 : Int) ^ 53) = .fin true (2 ^ 53 * oneUnits) ∧
    f2u (u2f (2 ^ 53)) = 0x0020000000000000#64 := by decide +kernel

/-- A sum, a difference, a product and a quotient with the results that IEEE 754 arithmetic gives: 1 + 1, 1 - 1, 2 * -2, 1 / 0. -/
theorem witness_ArithmeticRoundsTheExactResult :
    toWord (fadd (ofWord 0x3FF0000000000000#64) (ofWord 0x3FF0000000000000#64)) = 0x4000000000000000#64 ∧
    toWord (fsub (ofWord 0x3FF0000000000000#64) (ofWord 0x3FF0000000000000#64)) = 0 ∧
    toWord (fmul (ofWord 0x4000000000000000#64) (ofWord 0xC000000000000000#64)) = 0xC010000000000000#64 ∧
    toWord (fdiv (ofWord 0x3FF0000000000000#64) (ofWord 0)) = 0x7FF0000000000000#64 ∧
    isnan (ofWord 0x7FF8000000000000#64) = true := by decide +kernel

/-- Ties at 0.5 and 1.5 go to 0 and 2, and -0.5 rounds to -0. -/
theorem witness_RintRoundsToNearestTiesToEven :
    toWord (rint (ofWord 0x3FE0000000000000#64)) = 0 ∧
    toWord (rint (ofWord 0x3FF8000000000000#64)) = 0x4000000000000000#64 ∧
    toWord (rint (ofWord 0xBFE0000000000000#64)) = 0x8000000000000000#64 := by decide +kernel

/-- A finite number below an infinity, minus infinity below a negative number, and no order with a NaN. -/
theorem witness_ComparisonsAreTheOrderOfTheNumbers :
    flt (ofWord 0x3FF0000000000000#64) (ofWord 0x7FF0000000000000#64) = true ∧
    fgt (ofWord 0xBFF0000000000000#64) (ofWord 0xFFF0000000000000#64) = true ∧
    isnan (ofWord 0x7FF8000000000000#64) = true := by decide +kernel

/-- Every class of 60_exceptions.md R189 is met. -/
theorem test_source_reading :
    ([.noError, .unsupported, .illegal, .range] : List ErrorCode).map sourceReading =
      [.success, .sourceOutcome, .noSourceInput, .sourceFault] := by decide

/-- 42_bitcodec.md R159 at its limit `L = 64`: the vector fits `OPA` and the width fits its field. -/
theorem test_pack_bits_limit :
    expandLine (.packBits (List.replicate 64 true)) =
      [asmWrite .opa 0xFFFFFFFFFFFFFFFF, hostWriteEvent 0 0x4011#64, asmRead .res0] := by decide +kernel

end Sys2Proof.Tests
end

section
/-! PROOFS of 00_scope.md's statements on binary64. One fact carries them: rounding to the nearest multiple of a step, ties to even,
which is the operation behind both `roundUnits` and `roundWhole`. -/

namespace Sys2Proof.Machine

/-! ### How far a magnitude lies from the exact value -/

/-- A multiple of `p` is as far from `num / den` as its factor is from `num / (den * p)`. -/
theorem distanceFrom_mul (num den u p : Nat) : distanceFrom num den (u * p) = distanceFrom num (den * p) u := by
  simp only [distanceFrom]; push_cast; ring_nf

/-- Two different whole multiples of `den` lie at least `den` apart, so their distances from one value add up to that. -/
theorem le_distanceFrom_add (num den : Nat) {u v : Nat} (h : u ≠ v) :
    den ≤ distanceFrom num den u + distanceFrom num den v := by
  rcases Nat.lt_or_gt_of_ne h with huv | hvu
  · have := Nat.mul_le_mul_right den huv
    simp only [distanceFrom, Nat.succ_mul] at this ⊢; omega
  · have := Nat.mul_le_mul_right den hvu
    simp only [distanceFrom, Nat.succ_mul] at this ⊢; omega

theorem distanceFrom_div (num den : Nat) : distanceFrom num den (num / den) = num % den := by
  have := Nat.div_add_mod' num den
  simp only [distanceFrom]; omega

theorem distanceFrom_div_succ (num : Nat) {den : Nat} (hden : 0 < den) :
    distanceFrom num den (num / den + 1) = den - num % den := by
  have := Nat.div_add_mod' num den
  have := Nat.mod_lt num hden
  simp only [distanceFrom, ← Nat.cast_mul, Nat.succ_mul]; omega

/-! ### The nearest multiple, ties to even -/

/-- `num / step` rounded to the nearest whole number, a tie to the even one. -/
def nearestEven (num step : Nat) : Nat :=
  num / step + (decide (step < 2 * (num % step)) || (decide (2 * (num % step) = step) && num / step % 2 == 1)).toNat

theorem roundUnits_eq (num den : Nat) :
    roundUnits num den =
      nearestEven num (den * 2 ^ stepShift (num / den)) * 2 ^ stepShift (num / den) := rfl

theorem roundWhole_eq (units : Nat) : roundWhole units = nearestEven units oneUnits := rfl

/-- Below half a step it rounds down, above half a step up, and at half a step to the even neighbour. -/
theorem nearestEven_cases (num step : Nat) :
    (2 * (num % step) < step ∧ nearestEven num step = num / step) ∨
    (step < 2 * (num % step) ∧ nearestEven num step = num / step + 1) ∨
    (2 * (num % step) = step ∧ nearestEven num step % 2 = 0 ∧
      (nearestEven num step = num / step ∨ nearestEven num step = num / step + 1)) := by
  unfold nearestEven
  rcases Nat.lt_trichotomy (2 * (num % step)) step with hlt | heq | hgt
  · exact .inl ⟨hlt, by simp [hlt.ne, hlt.le]⟩
  · refine .inr (.inr ⟨heq, ?_⟩)
    rcases Nat.mod_two_eq_zero_or_one (num / step) with hlow | hlow
    · simp [heq, hlow]
    · simp [heq, hlow]; omega
  · exact .inr (.inl ⟨hgt, by simp [hgt]⟩)

theorem div_le_nearestEven (num step : Nat) : num / step ≤ nearestEven num step := by
  unfold nearestEven; omega

theorem nearestEven_le_div_add_one (num step : Nat) : nearestEven num step ≤ num / step + 1 :=
  Nat.add_le_add_left (Bool.toNat_le _) _

/-- The rounded multiple lies at most half a step away, and at exactly half a step it is even. -/
theorem nearestEven_half (num : Nat) {step : Nat} (hstep : 0 < step) :
    2 * distanceFrom num step (nearestEven num step) ≤ step ∧
    (2 * distanceFrom num step (nearestEven num step) = step → nearestEven num step % 2 = 0) := by
  have hmod := Nat.mod_lt num hstep
  rcases nearestEven_cases num step with ⟨hlt, h⟩ | ⟨hgt, h⟩ | ⟨heq, heven, h | h⟩
  · rw [h, distanceFrom_div]; omega
  · rw [h, distanceFrom_div_succ num hstep]; omega
  · refine ⟨?_, fun _ => heven⟩
    rw [h, distanceFrom_div]; omega
  · refine ⟨?_, fun _ => heven⟩
    rw [h, distanceFrom_div_succ num hstep]; omega

/-- No whole multiple of the step is nearer, and if another is as near, the rounded one is even. -/
theorem nearestEven_nearest (num : Nat) {step : Nat} (hstep : 0 < step) (k : Nat) :
    distanceFrom num step (nearestEven num step) ≤ distanceFrom num step k ∧
    (k ≠ nearestEven num step → distanceFrom num step k = distanceFrom num step (nearestEven num step) →
      nearestEven num step % 2 = 0) := by
  obtain ⟨hhalf, htie⟩ := nearestEven_half num hstep
  by_cases hk : k = nearestEven num step
  · exact ⟨by rw [hk], fun h => absurd hk h⟩
  · have hsum := le_distanceFrom_add num step hk
    exact ⟨by omega, fun _ heq => htie (by omega)⟩

/-! ### The step of a magnitude -/

/-- A magnitude's step is at most `2 ^ s` exactly below `2 ^ (s + 53)`. -/
theorem stepShift_le_iff (units s : Nat) : stepShift units ≤ s ↔ units < 2 ^ (s + 53) := by
  unfold stepShift
  by_cases h0 : units = 0
  · subst h0; simp
  · rw [← Nat.log2_lt h0]; omega

theorem lt_two_pow_stepShift (units : Nat) : units < 2 ^ (stepShift units + 53) :=
  (stepShift_le_iff units _).1 le_rfl

/-- A magnitude of at least 53 places above `2 ^ s` has at least that step. -/
theorem le_stepShift {units s : Nat} (h : 2 ^ 52 * 2 ^ s ≤ units) : s ≤ stepShift units := by
  obtain _ | t := s
  · exact Nat.zero_le _
  · rw [Nat.succ_le_iff, ← not_le, stepShift_le_iff, not_lt]
    calc 2 ^ (t + 53) = 2 ^ 52 * 2 ^ (t + 1) := by ring
      _ ≤ units := h

theorem stepShift_mul_two_pow_le {k s : Nat} (hk : k < 2 ^ 53) : stepShift (k * 2 ^ s) ≤ s := by
  rw [stepShift_le_iff, Nat.pow_add, Nat.mul_comm]
  exact Nat.mul_lt_mul_of_pos_left hk (Nat.two_pow_pos s)

/-- Above the subnormal step a magnitude fills its 53 places. -/
theorem stepShift_eq_zero_or_le (units : Nat) : stepShift units = 0 ∨ 2 ^ 52 * 2 ^ stepShift units ≤ units := by
  rcases Nat.eq_zero_or_pos (stepShift units) with h | h
  · exact .inl h
  · have := mt (stepShift_le_iff units (stepShift units - 1)).2 (by omega)
    rw [← pow_add]
    exact .inr (by convert Nat.le_of_not_lt this using 2; omega)

/-- A significand of exactly 53 places (or fewer, at the subnormal step) stands `stepShift` places up. -/
theorem stepShift_mul_two_pow {k s : Nat} (hk : k < 2 ^ 53) (hs : s = 0 ∨ 2 ^ 52 ≤ k) : stepShift (k * 2 ^ s) = s := by
  refine (stepShift_mul_two_pow_le hk).antisymm ?_
  rcases hs with rfl | hle
  · exact Nat.zero_le _
  · exact le_stepShift (Nat.mul_le_mul_right _ hle)

theorem representable_iff_dvd (units : Nat) : Representable units ↔ 2 ^ stepShift units ∣ units :=
  ⟨fun h => ⟨_, by rw [Nat.mul_comm]; exact h.symm⟩, Nat.div_mul_cancel⟩

theorem representable_mul_two_pow_of_lt {k : Nat} (hk : k < 2 ^ 53) (s : Nat) : Representable (k * 2 ^ s) :=
  (representable_iff_dvd _).2 ((Nat.pow_dvd_pow 2 (stepShift_mul_two_pow_le hk)).trans (Nat.dvd_mul_left _ _))

/-- At most 2^53 steps of any size are representable. -/
theorem representable_mul_two_pow {k : Nat} (hk : k ≤ 2 ^ 53) (s : Nat) : Representable (k * 2 ^ s) := by
  rcases hk.lt_or_eq with hlt | rfl
  · exact representable_mul_two_pow_of_lt hlt s
  · rw [show 2 ^ 53 * 2 ^ s = 2 ^ 52 * 2 ^ (s + 1) by ring]
    exact representable_mul_two_pow_of_lt (by norm_num) (s + 1)

/-- A representable magnitude is a multiple of every step up to its own. -/
theorem Representable.dvd_of_le {v s : Nat} (hv : Representable v) (h : 2 ^ 52 * 2 ^ s ≤ v) : 2 ^ s ∣ v :=
  (Nat.pow_dvd_pow 2 (le_stepShift h)).trans ((representable_iff_dvd v).1 hv)

/-! ### Rounding to a binary64 magnitude -/

/-- The multiple of its step that a magnitude rounds to has at most 53 places, and fills them above the subnormal step. -/
theorem roundedSignificand_bounds (num den : Nat) :
    nearestEven num (den * 2 ^ stepShift (num / den)) ≤ 2 ^ 53 ∧
    (stepShift (num / den) = 0 ∨ 2 ^ 52 ≤ nearestEven num (den * 2 ^ stepShift (num / den))) := by
  have hup := nearestEven_le_div_add_one num (den * 2 ^ stepShift (num / den))
  have hlow := div_le_nearestEven num (den * 2 ^ stepShift (num / den))
  rw [← Nat.div_div_eq_div_mul] at hup hlow
  constructor
  · have : num / den / 2 ^ stepShift (num / den) < 2 ^ 53 :=
      Nat.div_lt_of_lt_mul (by rw [← Nat.pow_add]; exact lt_two_pow_stepShift _)
    omega
  · exact (stepShift_eq_zero_or_le (num / den)).imp_right fun h =>
      ((Nat.le_div_iff_mul_le (Nat.two_pow_pos _)).2 h).trans hlow

theorem representable_roundUnits (num den : Nat) : Representable (roundUnits num den) := by
  rw [roundUnits_eq]
  exact representable_mul_two_pow (roundedSignificand_bounds num den).1 _

/-- An even multiple of the step has an even significand, also where rounding up to 2^53 of them doubles the step. -/
theorem roundUnits_significand_even (num den : Nat)
    (heven : nearestEven num (den * 2 ^ stepShift (num / den)) % 2 = 0) :
    roundUnits num den / 2 ^ stepShift (roundUnits num den) % 2 = 0 := by
  obtain ⟨hle, hfull⟩ := roundedSignificand_bounds num den
  rw [roundUnits_eq]
  generalize stepShift (num / den) = s at *
  generalize nearestEven num (den * 2 ^ s) = k at *
  rcases hle.lt_or_eq with hlt | rfl
  · rwa [stepShift_mul_two_pow hlt hfull, Nat.mul_div_cancel _ (Nat.two_pow_pos s)]
  · rw [show 2 ^ 53 * 2 ^ s = 2 ^ 52 * 2 ^ (s + 1) by ring,
      stepShift_mul_two_pow (by norm_num) (.inr le_rfl), Nat.mul_div_cancel _ (Nat.two_pow_pos _)]
    norm_num

/-- Among the multiples of the step of its binade, a magnitude rounds to the nearest, and in a tie to an even significand. -/
theorem roundUnits_nearest_of_dvd (num : Nat) {den v : Nat} (hden : 0 < den) (hv : 2 ^ stepShift (num / den) ∣ v) :
    distanceFrom num den (roundUnits num den) ≤ distanceFrom num den v ∧
    (v ≠ roundUnits num den → distanceFrom num den v = distanceFrom num den (roundUnits num den) →
      roundUnits num den / 2 ^ stepShift (roundUnits num den) % 2 = 0) := by
  obtain ⟨k, rfl⟩ := hv
  obtain ⟨hle, htie⟩ := nearestEven_nearest num (Nat.mul_pos hden (Nat.two_pow_pos (stepShift (num / den)))) k
  rw [Nat.mul_comm _ k]
  refine ⟨?_, fun hne heq => roundUnits_significand_even num den (htie ?_ ?_)⟩
  · rwa [roundUnits_eq, distanceFrom_mul, distanceFrom_mul]
  · rintro rfl; exact hne (roundUnits_eq num den).symm
  · rwa [roundUnits_eq, distanceFrom_mul, distanceFrom_mul] at heq

/-- A magnitude below the least one of the exact value's binade is farther away than that one. -/
theorem distanceFrom_lt_of_lt {num den v least : Nat} (hden : 0 < den) (hv : v < least) (hleast : least ≤ num / den) :
    distanceFrom num den least < distanceFrom num den v := by
  have hlt := (Nat.mul_lt_mul_right hden).2 hv
  have hle := (Nat.le_div_iff_mul_le hden).1 hleast
  simp only [distanceFrom, ← Nat.cast_mul]; omega

/-- Settles O54: a representable magnitude is a multiple of the step of the exact value's binade, or lies below that binade and so
farther away than its least member. -/
theorem roundingIsToNearestTiesToEven : Obligations.RoundingIsToNearestTiesToEven := by
  intro num den hden
  refine ⟨representable_roundUnits num den, fun v hv => ?_⟩
  by_cases hdvd : 2 ^ stepShift (num / den) ∣ v
  · exact roundUnits_nearest_of_dvd num hden hdvd
  · have hbelow : v < 2 ^ 52 * 2 ^ stepShift (num / den) := Nat.lt_of_not_le fun h => hdvd (hv.dvd_of_le h)
    have hbinade : 2 ^ 52 * 2 ^ stepShift (num / den) ≤ num / den := by
      refine (stepShift_eq_zero_or_le (num / den)).resolve_left fun h => hdvd ?_
      rw [h]; exact one_dvd v
    have hleast := (roundUnits_nearest_of_dvd num hden (Nat.dvd_mul_left _ (2 ^ 52))).1
    have hfar := distanceFrom_lt_of_lt hden hbelow hbinade
    exact ⟨by omega, fun _ heq => by omega⟩

/-- A representable magnitude rounds to itself. -/
theorem roundUnits_mul_den {u den : Nat} (hden : 0 < den) (hu : Representable u) : roundUnits (u * den) den = u := by
  have hle := ((roundingIsToNearestTiesToEven (u * den) den hden).2 u hu).1
  have h0 : distanceFrom (u * den) den u = 0 := by simp [distanceFrom]
  by_contra hne
  have := le_distanceFrom_add (u * den) den hne
  omega

/-! ### Overflow -/

/-- 2^1024 is 2^2098 units; with the exponent as a use wants it, since no tactic should evaluate the power. -/
theorem overflowUnits_eq {exponent : Nat} (h : exponent = 2098) : overflowUnits = 2 ^ exponent := by
  subst h; unfold overflowUnits; rfl

/-- The largest representable magnitude below `2 ^ (s + 53)` is the one of 53 ones. -/
theorem Representable.le_of_lt_two_pow {u s : Nat} (hu : Representable u) (h : u < 2 ^ (s + 53)) :
    u ≤ (2 ^ 53 - 1) * 2 ^ s := by
  by_cases hfull : 2 ^ 52 * 2 ^ s ≤ u
  · obtain ⟨k, rfl⟩ := hu.dvd_of_le hfull
    have hk : k < 2 ^ 53 := Nat.lt_of_mul_lt_mul_left (a := 2 ^ s) (by rwa [← Nat.pow_add])
    rw [Nat.mul_comm]
    exact Nat.mul_le_mul_right _ (by omega)
  · exact (Nat.le_of_not_le hfull).trans (Nat.mul_le_mul_right _ (by norm_num))

/-- The largest magnitude below `2 ^ (t + 54)` lies two half steps below it. -/
theorem largest_mul_den (t den : Nat) : (2 ^ 53 - 1) * 2 ^ (t + 1) * den = (2 ^ 54 - 2) * (2 ^ t * den) := by ring_nf

theorem two_pow_mul_den (t den : Nat) : 2 ^ (t + 1 + 53) * den = 2 ^ 54 * (2 ^ t * den) := by ring

/-- Less than half a step below the power of two above a binade, the largest of the binade is nearer. -/
theorem roundUnits_lt_two_pow {num den t : Nat} (hden : 0 < den) (h : num < (2 ^ 54 - 1) * (2 ^ t * den)) :
    roundUnits num den < 2 ^ (t + 1 + 53) := by
  by_contra htop
  have hle := ((roundingIsToNearestTiesToEven num den hden).2 _
    (representable_mul_two_pow (k := 2 ^ 53 - 1) (by norm_num) (t + 1))).1
  have hge := Nat.mul_le_mul_right den (Nat.le_of_not_lt htop)
  rw [two_pow_mul_den] at hge
  simp only [distanceFrom, ← Nat.cast_mul, largest_mul_den] at hle
  omega

/-- From half a step below the power of two above a binade on, the power is as near as the largest of the binade, whose significand
is odd. -/
theorem two_pow_le_roundUnits {num den t : Nat} (hden : 0 < den) (h : (2 ^ 54 - 1) * (2 ^ t * den) ≤ num) :
    2 ^ (t + 1 + 53) ≤ roundUnits num den := by
  obtain ⟨hrep, hnearest⟩ := roundingIsToNearestTiesToEven num den hden
  obtain ⟨hle, htie⟩ := hnearest (2 ^ (t + 1 + 53))
    (by rw [Nat.pow_add, Nat.mul_comm]; exact representable_mul_two_pow le_rfl _)
  have hunit : 0 < 2 ^ t * den := Nat.mul_pos (Nat.two_pow_pos t) hden
  by_contra hlt
  rw [not_le] at hlt
  have hmul := Nat.mul_le_mul_right den (hrep.le_of_lt_two_pow hlt)
  rw [largest_mul_den] at hmul
  simp only [distanceFrom, ← Nat.cast_mul, two_pow_mul_den t] at hle htie
  have hlargest : roundUnits num den = (2 ^ 53 - 1) * 2 ^ (t + 1) :=
    Nat.eq_of_mul_eq_mul_right hden (by rw [largest_mul_den]; omega)
  have heven := htie hlt.ne' (by omega)
  rw [hlargest, stepShift_mul_two_pow (by norm_num) (.inr (by norm_num)),
    Nat.mul_div_cancel _ (Nat.two_pow_pos _)] at heven
  norm_num at heven

theorem two_pow_le_roundUnits_iff (num : Nat) {den : Nat} (hden : 0 < den) (t : Nat) :
    2 ^ (t + 1 + 53) ≤ roundUnits num den ↔ (2 ^ 54 - 1) * 2 ^ t * den ≤ num := by
  rw [Nat.mul_assoc]
  exact ⟨fun h => Nat.le_of_not_lt fun hlt => (roundUnits_lt_two_pow hden hlt).not_ge h, two_pow_le_roundUnits hden⟩

theorem roundTo_eq_inf_iff (neg : Bool) (num den : Nat) :
    roundTo neg num den = .inf neg ↔ overflowUnits ≤ roundUnits num den := by
  rcases roundTo_cases neg num den with ⟨h, heq⟩ | ⟨h, heq⟩ <;> simp [heq, h]

theorem mul_two_pow_lt_overflowUnits {k s : Nat} (hk : k ≤ 2 ^ 53) (hs : s < 2045) : k * 2 ^ s < overflowUnits := by
  obtain ⟨exponent, he⟩ : ∃ exponent, exponent = 2098 := ⟨_, rfl⟩
  rw [overflowUnits_eq he]
  calc k * 2 ^ s ≤ 2 ^ 53 * 2 ^ s := Nat.mul_le_mul_right _ hk
    _ = 2 ^ (53 + s) := (Nat.pow_add 2 53 s).symm
    _ < 2 ^ exponent := Nat.pow_lt_pow_right Nat.one_lt_two (by omega)

/-- Settles O55: 2^1024 is 2^2098 units, so half a step below it is 2^2044 units. -/
theorem overflowRoundsToInfinity : Obligations.OverflowRoundsToInfinity := fun neg num den hden => by
  rw [roundTo_eq_inf_iff, overflowUnits_eq (exponent := 2044 + 1 + 53) rfl, two_pow_le_roundUnits_iff num hden]

/-! ### Exact integers -/

/-- A representable magnitude below 2^1024 is its own rounding. -/
theorem roundTo_of_representable (neg : Bool) {u : Nat} (hu : Representable u) (h : u < overflowUnits) :
    roundTo neg u 1 = .fin neg u := by
  have hround : roundUnits u 1 = u := by simpa using roundUnits_mul_den Nat.one_pos hu
  simp [roundTo, hround, h]

theorem roundTo_whole (neg : Bool) {n : Nat} (hn : n ≤ 2 ^ 53) :
    roundTo neg (n * oneUnits) 1 = .fin neg (n * oneUnits) := by
  rw [oneUnits_eq]
  exact roundTo_of_representable neg (representable_mul_two_pow hn 1074) (mul_two_pow_lt_overflowUnits hn (by norm_num))

theorem oneUnits_pos : 0 < oneUnits := by rw [oneUnits_eq]; exact pow_pos Nat.two_pos _

/-- `f2u` reads a whole number below 2^64 exactly. -/
theorem f2u_whole {n : Nat} (hn : n < 2 ^ 64) : f2u (.fin false (n * oneUnits)) = BitVec.ofNat 64 n := by
  have hdiv : n * oneUnits / oneUnits = n := Nat.mul_div_cancel n oneUnits_pos
  have hdomain : f2uStated (.fin false (n * oneUnits)) = true := by
    simp only [f2uStated, hdiv, hn, Nat.mul_mod_left]; rfl
  rw [f2u, if_pos hdomain, wholePart, hdiv]

/-- Settles O57: whole numbers up to 2^53 are representable, so they round to themselves. -/
theorem integersToTwoTo53AreExact : Obligations.IntegersToTwoTo53AreExact := by
  refine ⟨fun n hn => roundTo_whole _ hn, fun n hn => ?_⟩
  rw [u2f, roundTo_whole false hn]
  exact f2u_whole (by omega)

/-! ### Patterns -/

theorem toNat_signed (neg : Bool) {low : Nat} (h : low < 2 ^ 63) :
    (signed neg low).toNat = neg.toNat * 2 ^ 63 + low := by
  rw [signed, BitVec.toNat_append, BitVec.toNat_ofBool, BitVec.toNat_ofNat, Nat.mod_eq_of_lt h,
    ← Nat.shiftLeft_add_eq_or_of_lt h, Nat.shiftLeft_eq]

theorem getLsbD_63_signed (neg : Bool) (low : Nat) : (signed neg low).getLsbD 63 = neg := by
  rw [signed, BitVec.getLsbD_append]
  cases neg <;> rfl

/-- Bit 63 of a pattern, as a number. -/
theorem toNat_getLsbD_63 (w : Word) : (w.getLsbD 63).toNat = w.toNat / 2 ^ 63 := by
  have := w.isLt
  rw [BitVec.getLsbD, Nat.testBit_eq_decide_div_mod_eq]
  rcases (by omega : w.toNat / 2 ^ 63 = 0 ∨ w.toNat / 2 ^ 63 = 1) with h | h <;> simp only [h] <;> rfl

/-- A pattern is its sign over its exponent and fraction fields. -/
theorem signed_fields (w : Word) :
    signed (w.getLsbD 63) ((w.extractLsb' 52 11).toNat * 2 ^ 52 + (w.extractLsb' 0 52).toNat) = w := by
  have := w.isLt
  apply BitVec.eq_of_toNat_eq
  rw [toNat_signed _ (by omega), toNat_getLsbD_63, BitVec.extractLsb'_toNat, BitVec.extractLsb'_toNat,
    Nat.shiftRight_eq_div_pow, Nat.shiftRight_eq_div_pow]
  omega

/-- The exponent and fraction fields of a pattern put together from a sign, an exponent and a fraction. -/
theorem fields_signed (neg : Bool) {exponent fraction : Nat} (he : exponent < 2 ^ 11) (hf : fraction < 2 ^ 52) :
    ((signed neg (exponent * 2 ^ 52 + fraction)).extractLsb' 52 11).toNat = exponent ∧
    ((signed neg (exponent * 2 ^ 52 + fraction)).extractLsb' 0 52).toNat = fraction := by
  have hw := toNat_signed neg (low := exponent * 2 ^ 52 + fraction) (by omega)
  constructor
  · rw [BitVec.extractLsb'_toNat, hw, Nat.shiftRight_eq_div_pow]; omega
  · rw [BitVec.extractLsb'_toNat, hw, Nat.shiftRight_eq_div_pow]; omega

/-- The bits of a magnitude are one number: its step's place and its significand, whose leading one counts as one more place. -/
theorem magnitudeBits_mul_two_pow {k s : Nat} (hk : k < 2 ^ 53) (hs : s = 0 ∨ 2 ^ 52 ≤ k) :
    magnitudeBits (k * 2 ^ s) = s * 2 ^ 52 + k := by
  rw [magnitudeBits, stepShift_mul_two_pow hk hs, Nat.mul_div_cancel _ (Nat.two_pow_pos s)]

/-- What a pattern of finite exponent reads as, from its fields. -/
theorem ofWord_signed (neg : Bool) {exponent fraction : Nat} (he : exponent < 2047) (hf : fraction < 2 ^ 52) :
    ofWord (signed neg (exponent * 2 ^ 52 + fraction)) =
      if exponent = 0 then .fin neg fraction else .fin neg ((2 ^ 52 + fraction) * 2 ^ (exponent - 1)) := by
  obtain ⟨hexponent, hfraction⟩ := fields_signed neg (he.trans (by norm_num)) hf
  simp only [ofWord, getLsbD_63_signed, hexponent, hfraction, if_neg he.ne]

theorem ofWord_signed_inf (neg : Bool) : ofWord (signed neg (2047 * 2 ^ 52)) = .inf neg := by
  obtain ⟨hexponent, hfraction⟩ := fields_signed neg (exponent := 2047) (fraction := 0) (by norm_num) (by norm_num)
  simp only [Nat.add_zero] at hexponent hfraction
  simp only [ofWord, getLsbD_63_signed, hexponent, hfraction, if_true]

/-- Every pattern comes back from its reading: the exponent and fraction fields are the bits of the magnitude. -/
theorem toWord_ofWord (w : Word) : toWord (ofWord w) = w := by
  have hfields := signed_fields w
  have hf := (w.extractLsb' 0 52).isLt
  simp only [ofWord]
  generalize (w.extractLsb' 52 11).toNat = exponent at *
  generalize (w.extractLsb' 0 52).toNat = fraction at *
  by_cases hinf : exponent = 2047
  · rw [if_pos hinf]
    by_cases hzero : fraction = 0
    · rw [hinf, hzero, Nat.add_zero] at hfields
      rwa [if_pos hzero, toWord]
    · rw [if_neg hzero, toWord]
  · rw [if_neg hinf]
    by_cases hsub : exponent = 0
    · have hbits := magnitudeBits_mul_two_pow (k := fraction) (s := 0) (by omega) (.inl rfl)
      rw [if_pos hsub, toWord]
      rw [Nat.pow_zero, Nat.mul_one] at hbits
      rwa [hbits, ← hsub]
    · have hbits := magnitudeBits_mul_two_pow (k := 2 ^ 52 + fraction) (s := exponent - 1) (by omega) (.inr (by omega))
      rw [if_neg hsub, toWord, hbits]
      convert hfields using 2; omega

/-- A finite binary64 comes back from its pattern. -/
theorem ofWord_toWord_fin (neg : Bool) {u : Nat} (hu : Representable u) (h : u < overflowUnits) :
    ofWord (toWord (.fin neg u)) = .fin neg u := by
  have hshift : stepShift u ≤ 2045 :=
    (stepShift_le_iff u 2045).2 (by rwa [overflowUnits_eq (exponent := 2045 + 53) rfl] at h)
  have hlt : u / 2 ^ stepShift u < 2 ^ 53 :=
    Nat.div_lt_of_lt_mul (by rw [← Nat.pow_add]; exact lt_two_pow_stepShift u)
  have hfull : stepShift u = 0 ∨ 2 ^ 52 ≤ u / 2 ^ stepShift u :=
    (stepShift_eq_zero_or_le u).imp_right (Nat.le_div_iff_mul_le (Nat.two_pow_pos _)).2
  rw [toWord, magnitudeBits]
  conv_rhs => rw [← hu]
  generalize u / 2 ^ stepShift u = k at *
  generalize stepShift u = s at *
  by_cases hk : k < 2 ^ 52
  · obtain rfl : s = 0 := by omega
    rw [ofWord_signed neg (by norm_num) hk]; simp
  · have hbits : s * 2 ^ 52 + k = (s + 1) * 2 ^ 52 + (k - 2 ^ 52) := by omega
    rw [hbits, ofWord_signed neg (by omega) (by omega), if_neg (by omega)]
    rw [Nat.add_sub_cancel, Nat.add_sub_of_le (by omega)]

/-- Settles O56: a rounded magnitude is representable, so its bits give it back. -/
theorem patternsAndNumbersAgree : Obligations.PatternsAndNumbersAgree := by
  refine ⟨toWord_ofWord, fun neg num den _ => ?_⟩
  rcases roundTo_cases neg num den with ⟨hfin, h⟩ | ⟨_, h⟩
  · rw [h]; exact ofWord_toWord_fin neg (representable_roundUnits num den) hfin
  · rw [h]; exact ofWord_signed_inf neg

/-! ### Whole numbers -/

/-- Settles O59: `rint` rounds with the step 1, which is 2^1074 units. -/
theorem rintRoundsToNearestTiesToEven : Obligations.RintRoundsToNearestTiesToEven := by
  refine ⟨fun neg units => ⟨roundWhole units, by rw [rint, oneUnits_eq], fun k => ?_⟩, fun _ => rfl, fun _ => rfl⟩
  rw [distanceFrom_mul, distanceFrom_mul, Nat.one_mul, roundWhole_eq, ← oneUnits_eq]
  exact nearestEven_nearest units oneUnits_pos k

/-! ### Arithmetic and order by class of operand -/

theorem eq_nan_of_isnan {a : Binary64} (h : isnan a = true) : ∃ pattern, a = .nan pattern := by
  cases a with
  | nan pattern => exact ⟨pattern, rfl⟩
  | inf neg => cases h
  | fin neg units => cases h

/-- Every operation on a NaN answers a NaN. -/
theorem isnan_arithmetic_of_isnan {a b : Binary64} (h : isnan a = true ∨ isnan b = true) :
    isnan (fadd a b) = true ∧ isnan (fsub a b) = true ∧ isnan (fmul a b) = true ∧ isnan (fdiv a b) = true := by
  rcases h with h | h
  · obtain ⟨pattern, rfl⟩ := eq_nan_of_isnan h
    exact ⟨rfl, rfl, rfl, rfl⟩
  · obtain ⟨pattern, rfl⟩ := eq_nan_of_isnan h
    cases a <;> exact ⟨rfl, rfl, rfl, rfl⟩

theorem signedUnits_not (neg : Bool) (units : Nat) : signedUnits (!neg) units = -signedUnits neg units := by
  cases neg <;> simp [signedUnits]

/-- A sum of finite numbers is rounded once, or is a zero whose sign both agree on. -/
theorem addFinite_eq (na nb : Bool) (ua ub : Nat) {sum : Int} (h : signedUnits na ua + signedUnits nb ub = sum) :
    (sum ≠ 0 → addFinite na ua nb ub = roundTo (decide (sum < 0)) sum.natAbs 1) ∧
    (sum = 0 → addFinite na ua nb ub = .fin (na && nb) 0) := by
  subst h
  exact ⟨fun h => if_neg h, fun h => if_pos h⟩

/-- Settles O58, class of operand by class of operand. -/
theorem arithmeticRoundsTheExactResult : Obligations.ArithmeticRoundsTheExactResult := by
  refine ⟨fun na nb ua ub => ?_, fun na nb => ?_, fun na nb u => ?_, fun a b => isnan_arithmetic_of_isnan⟩
  · obtain ⟨hadd, hadd0⟩ := addFinite_eq na nb ua ub rfl
    obtain ⟨hsub, hsub0⟩ := addFinite_eq na (!nb) ua ub (by rw [signedUnits_not, ← sub_eq_add_neg])
    refine ⟨hadd, hadd0, hsub, hsub0, by rw [fmul, oneUnits_eq], fun h => ?_, fun h h' => ?_, fun h h' => ?_, rfl⟩
    · rw [fdiv, if_neg h, oneUnits_eq]
    · rw [fdiv, if_pos h, if_neg h']
    · rw [fdiv, if_pos h, if_pos h']; rfl
  · refine ⟨fun h => ?_, fun h => ?_, rfl, rfl, rfl⟩
    · subst h; cases na <;> exact ⟨rfl, rfl⟩
    · obtain rfl : nb = !na := Bool.eq_not.2 h.symm
      cases na <;> exact ⟨rfl, rfl⟩
  · refine ⟨rfl, rfl, rfl, rfl, fun h => ⟨if_neg h, ?_⟩, fun h => ?_, rfl, ?_⟩
    · rw [Bool.xor_comm]; exact if_neg h
    · subst h; exact ⟨rfl, rfl⟩
    · rw [Bool.xor_comm]; rfl

theorem orderPlace_fin (neg : Bool) (units : Nat) :
    orderPlace (.fin neg units) = some ((signedUnits neg units : WithTop Int) : WithBot (WithTop Int)) := rfl

/-- Two numbers compare as their places in the order; a NaN has no place. -/
theorem flt_iff (a b : Binary64) :
    flt a b = true ↔ ∃ x y, orderPlace a = some x ∧ orderPlace b = some y ∧ x < y := by
  cases a with
  | nan p => simp [flt, orderPlace]
  | inf na =>
    cases b with
    | nan p => simp [flt, orderPlace]
    | inf nb => cases na <;> cases nb <;> simp [flt, orderPlace]
    | fin nb ub => cases na <;> simp [flt, orderPlace]
  | fin na ua =>
    cases b with
    | nan p => simp [flt, orderPlace]
    | inf nb =>
      cases nb with
      | false => exact iff_of_true rfl ⟨_, _, rfl, rfl, WithBot.coe_lt_coe.2 (WithTop.coe_lt_top _)⟩
      | true => simp [flt, orderPlace]
    | fin nb ub => simp [flt, orderPlace_fin]

theorem flt_of_isnan {a b : Binary64} (h : isnan a = true ∨ isnan b = true) : flt a b = false := by
  rw [Bool.eq_false_iff, Ne, flt_iff]
  rintro ⟨x, y, hx, hy, -⟩
  rcases h with h | h
  · obtain ⟨pattern, rfl⟩ := eq_nan_of_isnan h
    cases hx
  · obtain ⟨pattern, rfl⟩ := eq_nan_of_isnan h
    cases hy

theorem flt_zeros (na nb : Bool) : flt (.fin na 0) (.fin nb 0) = false := by
  cases na <;> cases nb <;> rfl

/-- Settles O60: `flt` compares the places of its operands, and `fgt` is `flt` with the operands exchanged. -/
theorem comparisonsAreTheOrderOfTheNumbers : Obligations.ComparisonsAreTheOrderOfTheNumbers := by
  refine ⟨fun a b => ⟨flt_iff a b, ?_, fun h => ⟨flt_of_isnan h, flt_of_isnan h.symm⟩⟩,
    fun na nb => ⟨?_, flt_zeros na nb, flt_zeros nb na⟩⟩
  · rw [fgt, flt_iff]
    exact ⟨fun ⟨x, y, hx, hy, h⟩ => ⟨y, x, hy, hx, h⟩, fun ⟨x, y, hx, hy, h⟩ => ⟨y, x, hy, hx, h⟩⟩
  · cases na <;> rfl

end Sys2Proof.Machine
end

section
/-! PROOFS of 10_state.md's statements. What a command can end with and what a step does to the configuration are each said once; the
statements on flags, configuration, invariant and sticky error read off them. That a committed `DELTA` and `XMINQ` are finite rests on
the binary64 proofs above. -/

namespace Sys2Proof.Machine

/-! ### How a command ends -/

/-- CONFIG's checks pass exactly without `FZL` and outside the conditions of 41_quantizer.md R113. -/
theorem configError_eq_none_iff (nb : Nat) (fzl : Bool) (lo hi : Binary64) :
    configError nb fzl lo hi = none ↔ fzl = false ∧ ¬ BadConfiguration nb lo hi := by
  cases fzl with
  | true => simp [configError]
  | false => simp [configError, deltaOf, numLevels, Config.nbMin, Config.nbMax, ite_eq_iff]

/-- The ends of a command on a state: an error, or the success of the command's own kind. -/
inductive CommandEnd (s : State) : Instr → State → Prop where
  /-- any command: an error, which changes nothing but `ERR_CODE` and `ERR_STICKY` (40_common.md R93) -/
  | error {i : Instr} {code : ErrorCode} (hcode : code ≠ .noError) : CommandEnd s i (raiseError code s)
  /-- NOP succeeds -/
  | nop : CommandEnd s .nop (finishNores s)
  /-- CONFIG commits a valid configuration -/
  | config {nb : Nat} (hvalid : ¬ BadConfiguration nb (ofWord s.regs.opa) (ofWord s.regs.opb)) :
      CommandEnd s (.config nb false) (finishNores (commitDerived nb s))
  /-- QUANT writes its flags and its results -/
  | quant (rounded : Binary64) (maxIndex : Nat) (r0 r1 r2 r3 : Word) :
      CommandEnd s .quant (finish r0 r1 r2 r3 (writeQuantFlags (quantFlags rounded maxIndex) s))
  /-- every other command writes its results -/
  | result {i : Instr} (hquant : i ≠ .quant) (hconfig : ∀ nb fzl, i ≠ .config nb fzl) (r0 r1 r2 r3 : Word) :
      CommandEnd s i (finish r0 r1 r2 r3 s)

/-- A command that is known to end with an error or its four result words. -/
theorem EndsWithResult.commandEnd {i : Instr} {s t : State} {out : StepOutcome} (h : EndsWithResult s s out)
    (ht : out = .next t) (hquant : i ≠ .quant) (hconfig : ∀ nb fzl, i ≠ .config nb fzl) : CommandEnd s i t := by
  obtain ⟨code, hcode, he⟩ | ⟨r0, r1, r2, r3, he⟩ := h <;> cases he.symm.trans ht
  · exact .error hcode
  · exact .result hquant hconfig r0 r1 r2 r3

theorem commandEnd_of_execConfig {nb : Nat} {fzl : Bool} {s t : State} (h : execConfig nb fzl s = .next t) :
    CommandEnd s (.config nb fzl) t := by
  obtain ⟨code, hcode, he⟩ | ⟨hnone, he⟩ := execConfig_spec nb fzl s <;> cases he.symm.trans h
  · refine .error ?_
    rintro rfl
    obtain hc | hc | hc := configError_cases nb fzl (opaBinary64 s.regs) (opbBinary64 s.regs) <;> simp [hc] at hcode
  · obtain ⟨rfl, hvalid⟩ := (configError_eq_none_iff ..).1 hnone
    exact .config hvalid

theorem commandEnd_of_execQuant {s t : State} (h : execQuant s = .next t) : CommandEnd s .quant t := by
  cases hv : s.regs.status.cfgValid with
  | false =>
    have he : execQuant s = .next (raiseError .notConfigured s) := by simp [execQuant, hv]
    cases he.symm.trans h
    exact .error (by decide)
  | true =>
    cases (execQuant_of_valid s hv).symm.trans h
    exact .quant ..

/-- Every command ends in one of the ways listed. -/
theorem exec_commandEnd {i : Instr} {s t : State} (h : exec i s = .next t) : CommandEnd s i t := by
  cases i with
  | nop => cases h; exact .nop
  | config nb fzl => exact commandEnd_of_execConfig h
  | quant => exact commandEnd_of_execQuant h
  | dequant => exact (execDequant_ends s).commandEnd h (by simp) (by simp)
  | level => exact (execLevel_ends s).commandEnd h (by simp) (by simp)
  | thrld => exact (execThrld_ends s).commandEnd h (by simp) (by simp)
  | onebit => exact (execOnebit_ends s).commandEnd h (by simp) (by simp)
  | i2b w => exact (execI2b_ends w s).commandEnd h (by simp) (by simp)
  | b2i len => exact (execB2i_ends len s).commandEnd h (by simp) (by simp)
  | i2t b => exact (execI2t_ends b s).commandEnd h (by simp) (by simp)

/-! ### The flags -/

/-- QUANT's flags exclude one another: NaN, below 0 and above `max_index` are different cases (41_quantizer.md R117 step 3). -/
theorem quantFlags_exclusive (rounded : Binary64) (maxIndex : Nat) :
    ¬ ((quantFlags rounded maxIndex).lo = true ∧ (quantFlags rounded maxIndex).hi = true) ∧
    ¬ ((quantFlags rounded maxIndex).lo = true ∧ (quantFlags rounded maxIndex).nan = true) ∧
    ¬ ((quantFlags rounded maxIndex).hi = true ∧ (quantFlags rounded maxIndex).nan = true) := by
  simp only [quantFlags]
  cases isnan rounded <;> cases flt rounded (.fin false 0) <;> simp

/-- Settles O38, end by end of a command. -/
theorem commandsWriteOnlyTheirFlags : Obligations.CommandsWriteOnlyTheirFlags := by
  intro i s t h
  cases exec_commandEnd h with
  | error hcode =>
    exact ⟨fun _ => ⟨rfl, rfl, rfl⟩, fun _ he => absurd he hcode, fun _ => ⟨rfl, rfl⟩, fun _ _ _ he => absurd he hcode,
      fun _ => ⟨rfl, rfl, rfl, rfl, rfl⟩, rfl, rfl, rfl, rfl⟩
  | nop =>
    exact ⟨fun _ => ⟨rfl, rfl, rfl⟩, nofun, fun _ => ⟨rfl, rfl⟩, nofun, fun he => absurd rfl he, rfl, rfl, rfl, rfl⟩
  | @config nb hvalid =>
    exact ⟨fun _ => ⟨rfl, rfl, rfl⟩, nofun, fun he => absurd rfl (he nb false), fun _ _ _ _ => rfl,
      fun he => absurd rfl he, rfl, rfl, rfl, rfl⟩
  | quant rounded maxIndex r0 r1 r2 r3 =>
    exact ⟨fun he => absurd rfl he, fun _ _ => quantFlags_exclusive rounded maxIndex, fun _ => ⟨rfl, rfl⟩, nofun,
      fun he => absurd rfl he, rfl, rfl, rfl, rfl⟩
  | result hquant hconfig r0 r1 r2 r3 =>
    exact ⟨fun _ => ⟨rfl, rfl, rfl⟩, fun he => absurd he hquant, fun _ => ⟨rfl, rfl⟩,
      fun nb fzl he => absurd he (hconfig nb fzl), fun he => absurd rfl he, rfl, rfl, rfl, rfl⟩

/-- No command clears `ERR_STICKY`. -/
theorem errSticky_of_commandEnd {s t : State} {i : Instr} (h : CommandEnd s i t) (hs : s.regs.status.errSticky = true) :
    t.regs.status.errSticky = true := by
  cases h with
  | error _ => rfl
  | nop => exact hs
  | config _ => exact hs
  | quant => exact hs
  | result => exact hs

/-! ### The word of `STATUS` -/

/-- Every code fits the four bits of `ERR_CODE`. -/
theorem errorNumber_lt (code : ErrorCode) : errorNumber code < 2 ^ 4 := by cases code <;> decide

/-- The word of `STATUS` bit by bit. -/
theorem getLsbD_statusWord (st : Status) (b : Nat) :
    (statusWord st).getLsbD b =
      match b with
      | 0 => st.cfgValid
      | 1 => st.errSticky
      | 2 => st.satLo
      | 3 => st.satHi
      | 4 => st.nanIn
      | b + 5 => decide (3 ≤ b ∧ b < 7) && (errorNumber st.errCode).testBit (b - 3) := by
  rw [statusWord]
  iterate 7 rw [BitVec.getLsbD_append]
  match b with
  | 0 => simp
  | 1 => simp
  | 2 => simp
  | 3 => simp
  | 4 => simp
  | c + 5 =>
    have hin : (!decide (c < 3) && decide (c - 3 < 4)) = decide (3 ≤ c ∧ c < 7) := by
      rw [Bool.eq_iff_iff]; simp; omega
    simp [BitVec.getLsbD_ofNat, ← hin, Bool.and_assoc]

theorem extractLsb'_statusWord (st : Status) : (statusWord st).extractLsb' 8 4 = BitVec.ofNat 4 (errorNumber st.errCode) := by
  refine BitVec.eq_of_getLsbD_eq fun b hb => ?_
  have hfield : 8 + b = b + 3 + 5 := by omega
  have hin : b + 3 < 7 := by omega
  rw [BitVec.getLsbD_extractLsb', BitVec.getLsbD_ofNat, hfield, getLsbD_statusWord]
  simp [hin, hb]

/-- Settles O12: `STATUS` is its fields put side by side. -/
theorem statusFieldsStandAtTheirBits : Obligations.StatusFieldsStandAtTheirBits := by
  refine ⟨⟨rfl, rfl, rfl, rfl, rfl, rfl, rfl⟩, fun st => ⟨getLsbD_statusWord st 0, getLsbD_statusWord st 1,
    getLsbD_statusWord st 2, getLsbD_statusWord st 3, getLsbD_statusWord st 4, ?_, fun b h => ?_⟩⟩
  · rw [extractLsb'_statusWord, BitVec.toNat_ofNat, Nat.mod_eq_of_lt (errorNumber_lt _)]
  · obtain ⟨c, rfl⟩ : ∃ c, b = c + 5 := ⟨b - 5, by omega⟩
    have hout : ¬ (3 ≤ c ∧ c < 7) := by omega
    simp [getLsbD_statusWord, hout]

/-! ### What a step does to the configuration -/

/-- The word written to `CMD` commits a configuration on these registers (41_quantizer.md R113, R114). -/
def Commits (r : Registers) (word : Word) (nb : Nat) : Prop :=
  decode word = .ok (.config nb false) ∧ ¬ BadConfiguration nb (ofWord r.opa) (ofWord r.opb)

/-- Two states hold the same configuration, committed in both or in neither, under the same reset line. -/
def KeepsConfiguration (s t : State) : Prop :=
  configuration t.regs = configuration s.regs ∧ t.regs.status.cfgValid = s.regs.status.cfgValid ∧ t.inReset = s.inReset

theorem KeepsConfiguration.refl (s : State) : KeepsConfiguration s s := ⟨rfl, rfl, rfl⟩

/-- A write to `CMD` leaves the configuration, or commits one. -/
theorem writeCmd_configuration {word : Word} {s t : State} (h : writeCmd word s = .next t) :
    KeepsConfiguration s t ∨ ∃ nb, Commits s.regs word nb ∧ t = finishNores (commitDerived nb s) := by
  obtain ⟨i, hi, he⟩ | ⟨e, -, he⟩ := writeCmd_cases word s
  · rw [he] at h
    cases exec_commandEnd h with
    | error => exact .inl (.refl s)
    | nop => exact .inl (.refl s)
    | @config nb hvalid => exact .inr ⟨nb, ⟨hi, hvalid⟩, rfl⟩
    | quant => exact .inl (.refl s)
    | result => exact .inl (.refl s)
  · cases he.symm.trans h
    exact .inl ⟨rfl, rfl, rfl⟩

/-- A host write outside `CMD` leaves the configuration. -/
theorem writeReg_configuration (g : Option Reg) (v : Word) (s : State) :
    KeepsConfiguration s (s.withRegs (writeReg g v s.regs)) := by
  unfold writeReg
  split <;> exact .refl s

/-- A step that is no event of the reset line leaves the configuration, unless it is a write to `CMD` that commits one. -/
theorem step_configuration {s t : State} (h : step s = .next t) :
    KeepsConfiguration s t ∨
    (∃ word nb, nextEvent s = some (.access (.write 0x00 64 word)) ∧ Commits s.regs word nb ∧
      t = (finishNores (commitDerived nb s)).advance) ∨
    (∃ asserted, nextEvent s = some (.resetLine asserted) ∧ t = (moveResetLine asserted s).advance) := by
  obtain ⟨-, rfl⟩ | ⟨off, -, -, -, rfl⟩ | ⟨off, v, u, hev, -, -, hw, rfl⟩ | ⟨asserted, hev, rfl⟩ := step_cases s t h
  · exact .inl (.refl _)
  · exact .inl ⟨rfl, rfl, rfl⟩
  · obtain ⟨hcmd, he⟩ | ⟨-, he⟩ := hostWrite_cases off v s
    · obtain rfl := (regAt_eq_some off .cmd).1 hcmd
      obtain hkeeps | ⟨nb, hcommits, rfl⟩ := writeCmd_configuration (he.symm.trans hw)
      · exact .inl hkeeps
      · exact .inr (.inl ⟨v, nb, hev, hcommits, rfl⟩)
    · cases he.symm.trans hw
      exact .inl (writeReg_configuration _ v s)
  · exact .inr (.inr ⟨asserted, hev, rfl⟩)

/-- Settles O41: of the steps that do not keep the configuration, each is a commit or an event of the reset line. -/
theorem onlyConfigOrResetChangesTheConfiguration : Obligations.OnlyConfigOrResetChangesTheConfiguration := by
  intro s t h hne
  obtain ⟨hsame, -⟩ | ⟨word, nb, hev, ⟨hdecode, hvalid⟩, -⟩ | ⟨asserted, hev, -⟩ := step_configuration h
  · exact absurd hsame hne
  · exact .inl ⟨word, nb, hev, hdecode, hvalid⟩
  · exact .inr ⟨asserted, hev⟩

/-- Settles O42: a step keeps `CFG_VALID`, or is a commit, which sets it. -/
theorem cfgValidMovesOnlyByConfigOrReset : Obligations.CfgValidMovesOnlyByConfigOrReset := by
  intro s t h hline
  obtain ⟨-, hvalid, -⟩ | ⟨word, nb, hev, ⟨hdecode, hvalid⟩, rfl⟩ | ⟨asserted, hev, -⟩ := step_configuration h
  · rw [hvalid]
    exact ⟨id, fun hf ht => nomatch hf.symm.trans ht⟩
  · exact ⟨fun _ => rfl, fun _ _ => ⟨word, nb, hev, hdecode, hvalid⟩⟩
  · exact absurd hev (hline asserted)

/-! ### The sticky error -/

/-- A write to `CMD` never clears `ERR_STICKY`. -/
theorem writeCmd_errSticky {word : Word} {s t : State} (h : writeCmd word s = .next t)
    (hs : s.regs.status.errSticky = true) : t.regs.status.errSticky = true := by
  obtain ⟨i, -, he⟩ | ⟨e, -, he⟩ := writeCmd_cases word s
  · exact errSticky_of_commandEnd (exec_commandEnd (he.symm.trans h)) hs
  · cases he.symm.trans h
    rfl

/-- A host write outside `CMD` clears `ERR_STICKY` only as bit 1 of a write to `STATUS`. -/
theorem writeReg_errSticky {g : Option Reg} {v : Word} {r : Registers} (hs : r.status.errSticky = true)
    (ht : (writeReg g v r).status.errSticky = false) : g = some .status ∧ v.getLsbD 1 = true := by
  unfold writeReg at ht
  split at ht
  · exact ⟨rfl, by simpa [hs] using ht⟩
  all_goals exact nomatch hs.symm.trans ht

/-- Settles O43: of the host's writes, only the one to `STATUS` reaches `ERR_STICKY` other than to set it. -/
theorem errStickyStaysUntilCleared : Obligations.ErrStickyStaysUntilCleared := by
  intro s t h hs ht
  obtain ⟨-, rfl⟩ | ⟨off, -, -, -, rfl⟩ | ⟨off, v, u, hev, -, -, hw, rfl⟩ | ⟨asserted, hev, -⟩ := step_cases s t h
  · exact nomatch hs.symm.trans ht
  · exact nomatch hs.symm.trans ht
  · obtain ⟨-, he⟩ | ⟨-, he⟩ := hostWrite_cases off v s
    · exact nomatch (writeCmd_errSticky (he.symm.trans hw) hs).symm.trans ht
    · cases he.symm.trans hw
      obtain ⟨hstatus, hbit⟩ := writeReg_errSticky hs ht
      obtain rfl := (regAt_eq_some off .status).1 hstatus
      exact .inl ⟨v, hev, hbit⟩
  · exact .inr ⟨asserted, hev⟩

/-! ### Finite magnitudes -/

/-- A magnitude that a finite binary64 has (00_scope.md R6). -/
def IsMagnitude (units : Nat) : Prop := Representable units ∧ units < overflowUnits

theorem isMagnitude_mul_two_pow {k s : Nat} (hk : k < 2 ^ 53) (hs : s ≤ 2045) : IsMagnitude (k * 2 ^ s) := by
  refine ⟨representable_mul_two_pow_of_lt hk s, ?_⟩
  obtain ⟨exponent, he⟩ : ∃ exponent, exponent = 2098 := ⟨_, rfl⟩
  rw [overflowUnits_eq he]
  calc k * 2 ^ s < 2 ^ 53 * 2 ^ s := Nat.mul_lt_mul_of_pos_right hk (Nat.two_pow_pos s)
    _ = 2 ^ (53 + s) := (Nat.pow_add 2 53 s).symm
    _ ≤ 2 ^ exponent := Nat.pow_le_pow_right Nat.two_pos (by omega)

theorem isMagnitude_zero : IsMagnitude 0 := by
  simpa using isMagnitude_mul_two_pow (k := 0) (s := 0) (by norm_num) (Nat.zero_le _)

theorem IsMagnitude.max {u v : Nat} (hu : IsMagnitude u) (hv : IsMagnitude v) : IsMagnitude (max u v) := by
  rcases max_choice u v with h | h <;> rw [h] <;> assumption

/-- A finite pattern reads as a magnitude: below 2^53 steps of its exponent. -/
theorem isMagnitude_of_ofWord {w : Word} {neg : Bool} {u : Nat} (h : ofWord w = .fin neg u) : IsMagnitude u := by
  have hexponent := (w.extractLsb' 52 11).isLt
  have hfraction := (w.extractLsb' 0 52).isLt
  simp only [ofWord] at h
  generalize (w.extractLsb' 52 11).toNat = exponent at *
  generalize (w.extractLsb' 0 52).toNat = fraction at *
  split_ifs at h with hinf hzero hsub
  · obtain ⟨-, rfl⟩ := Binary64.fin.inj h
    simpa using isMagnitude_mul_two_pow (k := fraction) (s := 0) (by omega) (Nat.zero_le _)
  · cases h
    exact isMagnitude_mul_two_pow (by omega) (by omega)

theorem exists_fin_of_isfinite {a : Binary64} (h : isfinite a = true) : ∃ neg u, a = .fin neg u := by
  cases a with
  | nan pattern => cases h
  | inf neg => cases h
  | fin neg u => exact ⟨neg, u, rfl⟩

/-! ### Rounding below a bound -/

/-- Rounding does not pass a representable magnitude: the rounded one would be farther away than it. -/
theorem roundUnits_le_of_le {num den v : Nat} (hden : 0 < den) (hv : Representable v) (h : num ≤ v * den) :
    roundUnits num den ≤ v := by
  have hnearest := ((roundingIsToNearestTiesToEven num den hden).2 v hv).1
  by_contra hlt
  have hmul := Nat.mul_lt_mul_of_pos_right (not_le.1 hlt) hden
  simp only [distanceFrom, ← Nat.cast_mul] at hnearest
  omega

/-- An exact value up to a finite magnitude rounds to a finite number. -/
theorem roundTo_of_le (neg : Bool) {num den v : Nat} (hden : 0 < den) (hv : IsMagnitude v) (h : num ≤ v * den) :
    roundTo neg num den = .fin neg (roundUnits num den) ∧ IsMagnitude (roundUnits num den) := by
  have hlt := (roundUnits_le_of_le hden hv.1 h).trans_lt hv.2
  exact ⟨if_pos hlt, representable_roundUnits num den, hlt⟩

/-- A finite rounding is of the rounded magnitude. -/
theorem roundTo_of_isfinite {neg : Bool} {num den : Nat} (h : isfinite (roundTo neg num den) = true) :
    roundTo neg num den = .fin neg (roundUnits num den) ∧ IsMagnitude (roundUnits num den) := by
  rcases roundTo_cases neg num den with ⟨hlt, heq⟩ | ⟨-, heq⟩
  · exact ⟨heq, representable_roundUnits num den, hlt⟩
  · rw [heq] at h
    cases h

/-- A sum that is no larger than a finite magnitude is finite. -/
theorem addFinite_of_le {na nb : Bool} {ua ub v : Nat} (hv : IsMagnitude v)
    (h : (signedUnits na ua + signedUnits nb ub).natAbs ≤ v) :
    ∃ neg u, addFinite na ua nb ub = .fin neg u ∧ IsMagnitude u := by
  obtain ⟨hsum, hzero⟩ := addFinite_eq na nb ua ub rfl
  by_cases h0 : signedUnits na ua + signedUnits nb ub = 0
  · exact ⟨_, _, hzero h0, isMagnitude_zero⟩
  · rw [hsum h0]
    exact ⟨_, _, roundTo_of_le _ Nat.one_pos hv (by rwa [Nat.mul_one])⟩

theorem natAbs_signedUnits (neg : Bool) (units : Nat) : (signedUnits neg units).natAbs = units := by
  cases neg <;> simp [signedUnits]

/-! ### The derived configuration -/

/-- `|xmax - xmin|` of a range of `width` units, rounded, over `2^nb`, rounded (41_quantizer.md R111). -/
def deltaUnits (nb width : Nat) : Nat := roundUnits (roundUnits width 1 * oneUnits) (2 ^ nb * oneUnits)

/-- `delta / 2`, rounded, of a `delta` of `d` units (41_quantizer.md R111). -/
def halfUnits (d : Nat) : Nat := roundUnits (d * oneUnits) (2 * oneUnits)

/-- The difference of two numbers `width > 0` units apart is `width`, rounded. -/
theorem fsub_of_add {nhi nlo : Bool} {uhi ulo width : Nat} (hpos : 0 < width)
    (h : signedUnits nlo ulo + width = signedUnits nhi uhi) :
    fsub (.fin nhi uhi) (.fin nlo ulo) = roundTo false width 1 := by
  have hsum : signedUnits nhi uhi + signedUnits (!nlo) ulo = width := by rw [signedUnits_not]; omega
  have hneg : decide ((width : Int) < 0) = false := by simp
  have hround := (addFinite_eq nhi (!nlo) uhi ulo hsum).1 (by omega)
  rwa [hneg, Int.natAbs_natCast] at hround

/-- The number of levels is exact: it is at most 2^32. -/
theorem u2f_numLevels {nb : Nat} (h : nb ≤ 32) : u2f (numLevels nb) = .fin false (2 ^ nb * oneUnits) :=
  roundTo_whole false (Nat.pow_le_pow_right Nat.two_pos (by omega))

/-- A finite `delta` is the quotient of a finite difference. -/
theorem deltaOf_of_isfinite {nb ulo uhi width : Nat} {nlo nhi : Bool} (hnb : nb ≤ 32) (hpos : 0 < width)
    (h : signedUnits nlo ulo + width = signedUnits nhi uhi)
    (hfin : isfinite (deltaOf nb (.fin nlo ulo) (.fin nhi uhi)) = true) :
    deltaOf nb (.fin nlo ulo) (.fin nhi uhi) = .fin false (deltaUnits nb width) ∧ IsMagnitude (deltaUnits nb width) := by
  rw [deltaOf, fsub_of_add hpos h, u2f_numLevels hnb] at hfin ⊢
  rcases roundTo_cases false width 1 with ⟨-, heq⟩ | ⟨-, heq⟩
  · have hdiv : fdiv (fabs (roundTo false width 1)) (.fin false (2 ^ nb * oneUnits)) =
        roundTo false (roundUnits width 1 * oneUnits) (2 ^ nb * oneUnits) := by
      rw [heq]
      exact if_neg (Nat.mul_pos (Nat.two_pow_pos nb) oneUnits_pos).ne'
    rw [hdiv] at hfin ⊢
    exact roundTo_of_isfinite hfin
  · rw [heq] at hfin
    cases hfin

/-- What a valid configuration's bounds and `delta` are: finite bounds some units apart, and a finite `delta` above zero. -/
theorem delta_of_valid {nb : Nat} {lo hi : Binary64} (h : ¬ BadConfiguration nb lo hi) :
    ∃ nlo ulo nhi uhi, ∃ width : Nat, lo = .fin nlo ulo ∧ hi = .fin nhi uhi ∧ 0 < width ∧
      signedUnits nlo ulo + width = signedUnits nhi uhi ∧
      deltaOf nb lo hi = .fin false (deltaUnits nb width) ∧ 0 < deltaUnits nb width ∧
      IsMagnitude (deltaUnits nb width) := by
  simp only [not_or, Bool.not_eq_false] at h
  obtain ⟨⟨hmin, hmax⟩, ⟨hlo, hhi⟩, hlt, hfin, hzero⟩ := h
  obtain ⟨nlo, ulo, rfl⟩ := exists_fin_of_isfinite hlo
  obtain ⟨nhi, uhi, rfl⟩ := exists_fin_of_isfinite hhi
  have horder : signedUnits nlo ulo < signedUnits nhi uhi := of_decide_eq_true hlt
  obtain ⟨width, hwidth⟩ := Int.le.dest horder.le
  have hpos : 0 < width := by omega
  obtain ⟨hdelta, hmag⟩ := deltaOf_of_isfinite (not_lt.1 hmax) hpos hwidth hfin
  refine ⟨nlo, ulo, nhi, uhi, width, rfl, rfl, hpos, hwidth, hdelta, ?_, hmag⟩
  have hne : isZero (.fin false (deltaUnits nb width)) ≠ true := hdelta ▸ hzero
  simpa [isZero, Nat.pos_iff_ne_zero] using hne

/-- A valid configuration's `delta` comes back from its register. -/
theorem ofWord_toWord_deltaOf {nb : Nat} {lo hi : Binary64} (h : ¬ BadConfiguration nb lo hi) :
    ofWord (toWord (deltaOf nb lo hi)) = deltaOf nb lo hi := by
  obtain ⟨nlo, ulo, nhi, uhi, width, -, -, -, -, hdelta, -, hmag⟩ := delta_of_valid h
  rw [hdelta]
  exact ofWord_toWord_fin false hmag.1 hmag.2

/-- Half of `delta` is at most the range, although it is rounded three times: with `2^k` the power of two below the range, the
difference rounds to at most `2^(k+1)`, and `delta` and its half to at most `2^k`. -/
theorem halfUnits_deltaUnits_le {nb width : Nat} (hnb : 1 ≤ nb) (hpos : 0 < width) :
    halfUnits (deltaUnits nb width) ≤ width := by
  have hrep : ∀ k, Representable (2 ^ k) := fun k => by
    simpa using representable_mul_two_pow_of_lt (k := 1) (by norm_num) k
  have hone := oneUnits_pos
  have hdiff : roundUnits width 1 ≤ 2 ^ (width.log2 + 1) :=
    roundUnits_le_of_le Nat.one_pos (hrep _) (by simpa using Nat.lt_log2_self.le)
  have hdelta : deltaUnits nb width ≤ 2 ^ width.log2 := by
    refine roundUnits_le_of_le (Nat.mul_pos (Nat.two_pow_pos nb) hone) (hrep _) ?_
    rw [← Nat.mul_assoc]
    refine Nat.mul_le_mul_right _ (hdiff.trans ?_)
    rw [Nat.pow_succ]
    exact Nat.mul_le_mul_left _ (Nat.le_self_pow (by omega) 2)
  have hhalf : halfUnits (deltaUnits nb width) ≤ 2 ^ width.log2 := by
    refine roundUnits_le_of_le (Nat.mul_pos Nat.two_pos hone) (hrep _) ?_
    rw [← Nat.mul_assoc]
    exact Nat.mul_le_mul_right _ (hdelta.trans (Nat.le_mul_of_pos_right _ Nat.two_pos))
  exact hhalf.trans (Nat.log2_self_le hpos.ne')

/-- `delta / 2` is finite. -/
theorem fdiv_two_of_isMagnitude {d : Nat} (h : IsMagnitude d) :
    fdiv (.fin false d) two = .fin false (halfUnits d) := by
  have hden : 0 < 2 * oneUnits := Nat.mul_pos Nat.two_pos oneUnits_pos
  have hdiv : fdiv (.fin false d) two = roundTo false (d * oneUnits) (2 * oneUnits) := if_neg hden.ne'
  rw [hdiv]
  refine (roundTo_of_le false hden h ?_).1
  exact Nat.mul_le_mul_left d (Nat.le_mul_of_pos_left _ Nat.two_pos)

/-- Adding `0 * delta` leaves a finite number finite. -/
theorem fadd_zero_mul_of_isMagnitude {neg : Bool} {u d : Nat} (h : IsMagnitude u) :
    ∃ neg' u', fadd (.fin neg u) (fmul (u2f 0) (.fin false d)) = .fin neg' u' ∧ IsMagnitude u' := by
  have hzero : u2f 0 = .fin false 0 := by
    rw [u2f, roundTo_whole false (Nat.zero_le _), Nat.zero_mul]
  have hmul : fmul (.fin false 0) (.fin false d) = .fin false 0 := by
    obtain ⟨heq, -⟩ := roundTo_of_le false (num := 0 * d) oneUnits_pos isMagnitude_zero (by simp)
    have := roundUnits_le_of_le (num := 0 * d) oneUnits_pos isMagnitude_zero.1 (by simp)
    exact heq.trans (by rw [Nat.le_zero.1 this])
  rw [hzero, hmul]
  have hsum : signedUnits neg u + signedUnits false 0 = signedUnits neg u := add_zero _
  exact addFinite_of_le h (by rw [hsum, natAbs_signedUnits])

/-- A valid configuration's `xmin_q` is finite: its first level lies between the bounds. -/
theorem xminqOf_of_valid {nb : Nat} {xmin xmax : Word} (h : ¬ BadConfiguration nb (ofWord xmin) (ofWord xmax)) :
    ∃ neg u, xminqOf (ofWord xmin) (deltaOf nb (ofWord xmin) (ofWord xmax)) = .fin neg u ∧ IsMagnitude u := by
  have hnb : 1 ≤ nb := by simp only [not_or, not_lt] at h; exact h.1.1
  obtain ⟨nlo, ulo, nhi, uhi, width, hlo, hhi, hpos, hwidth, hdelta, -, hmag⟩ := delta_of_valid h
  have hhalf := halfUnits_deltaUnits_le hnb hpos
  have hbound : IsMagnitude (max ulo uhi) := (isMagnitude_of_ofWord hlo).max (isMagnitude_of_ofWord hhi)
  have hlo_abs := natAbs_signedUnits nlo ulo
  have hhi_abs := natAbs_signedUnits nhi uhi
  have hsigned : ∀ u, signedUnits false u = u := fun _ => rfl
  obtain ⟨neg, u, hsum, hu⟩ := addFinite_of_le (na := nlo) (ua := ulo) (nb := false)
    (ub := halfUnits (deltaUnits nb width)) hbound (by rw [hsigned]; omega)
  have hfirst : fadd (.fin nlo ulo) (.fin false (halfUnits (deltaUnits nb width))) = .fin neg u := hsum
  rw [hdelta, hlo, xminqOf, fdiv_two_of_isMagnitude hmag, hfirst]
  exact fadd_zero_mul_of_isMagnitude hu

/-- The committed bounds are valid. -/
theorem Configured.not_badConfiguration {r : Registers} (h : Configured r) :
    ¬ BadConfiguration (nbitsU64 r) (ofWord r.xmin) (ofWord r.xmax) :=
  ((configError_eq_none_iff ..).1 h.1).2

/-- Settles O52: the registers of a configured state read back as the derived values, and these are finite. -/
theorem committedDeltaIsPositiveAndFinite : Obligations.CommittedDeltaIsPositiveAndFinite := by
  intro r hinv hvalid
  have hconfigured := hinv.2 hvalid
  have hgood := hconfigured.not_badConfiguration
  obtain ⟨-, -, hdelta, hxminq⟩ := hconfigured
  have hread : ofWord r.delta = deltaOf (nbitsU64 r) (ofWord r.xmin) (ofWord r.xmax) := by
    rw [hdelta, ofWord_toWord_deltaOf hgood]
  constructor
  · obtain ⟨-, -, -, -, width, -, -, -, -, heq, hpos, -⟩ := delta_of_valid hgood
    exact ⟨_, hread.trans heq, hpos⟩
  · obtain ⟨neg, u, heq, hmag⟩ := xminqOf_of_valid hgood
    rw [hxminq, deltaBinary64, hread, heq, ofWord_toWord_fin neg hmag.1 hmag.2]
    rfl

/-! ### The invariant -/

/-- The invariant reads the configuration and `CFG_VALID` only. -/
theorem ConfigInvariant.of_configuration {r r' : Registers} (hinv : ConfigInvariant r)
    (hconfig : configuration r' = configuration r) (hvalid : r'.status.cfgValid = r.status.cfgValid) : ConfigInvariant r' := by
  obtain ⟨st, _, _, _, _, _, _, _, nb, lo, hi, dl, xq, mi⟩ := r
  obtain ⟨st', _, _, _, _, _, _, _, nb', lo', hi', dl', xq', mi'⟩ := r'
  simp only [configuration, List.cons.injEq, and_true] at hconfig hvalid
  obtain ⟨rfl, rfl, rfl, rfl, rfl, rfl⟩ := hconfig
  rw [ConfigInvariant, hvalid]
  exact hinv

/-- What a successful CONFIG commits is a configured register set. -/
theorem configured_commitDerived {nb : Nat} {s : State} (h : ¬ BadConfiguration nb (ofWord s.regs.opa) (ofWord s.regs.opb)) :
    Configured (finishNores (commitDerived nb s)).regs := by
  have hnb : nb ≤ 32 := by simp only [not_or, not_lt] at h; exact h.1.2
  have hlevels : 2 ^ nb ≤ 2 ^ 32 := Nat.pow_le_pow_right Nat.two_pos hnb
  have hnbits : nbitsU64 (finishNores (commitDerived nb s)).regs = nb := Nat.mod_eq_of_lt (by omega)
  have hmaxidx : maxidxU64 (finishNores (commitDerived nb s)).regs = 2 ^ nb - 1 := Nat.mod_eq_of_lt (by rw [numLevels]; omega)
  have hdelta : deltaBinary64 (finishNores (commitDerived nb s)).regs = deltaOf nb (ofWord s.regs.opa) (ofWord s.regs.opb) :=
    ofWord_toWord_deltaOf h
  rw [Configured, ValidConfig, hnbits, hmaxidx, hdelta]
  exact ⟨(configError_eq_none_iff ..).2 ⟨rfl, h⟩, rfl, rfl, rfl⟩

/-- Moving the reset line keeps the invariant: it asks nothing under reset, and reset registers are unconfigured. -/
theorem moveResetLine_inv {s : State} (asserted : Bool) (hinv : s.Inv) : (moveResetLine asserted s).Inv := by
  obtain ⟨-, -, he⟩ | ⟨-, -, he⟩ | ⟨-, he⟩ := moveResetLine_spec asserted s <;> rw [he]
  · exact nofun
  · exact fun _ => ⟨fun _ => ⟨rfl, rfl, rfl, rfl, rfl, rfl⟩, nofun⟩
  · exact hinv

/-- Settles O45, over what a step can do to the configuration: keep it, commit a valid one, or move the reset line. -/
theorem everyStepKeepsTheInvariant : Obligations.EveryStepKeepsTheInvariant := by
  intro s t hinv h
  obtain ⟨hconfig, hvalid, hline⟩ | ⟨word, nb, -, ⟨-, hgood⟩, rfl⟩ | ⟨asserted, -, rfl⟩ := step_configuration h
  · exact fun hreset => (hinv (hline ▸ hreset)).of_configuration hconfig hvalid
  · exact fun _ => ⟨nofun, fun _ => configured_commitDerived hgood⟩
  · exact moveResetLine_inv asserted hinv

end Sys2Proof.Machine
end

section
/-! PROOFS of 20_memory.md's statements. A step on an admitted access is said once for a read and once for a write, and a step faults
exactly on a bus error; the statements on admission, on the table of R55 and on read after write read off these rules. -/

namespace Sys2Proof.Machine

/-! ### Admission -/

/-- A width and offset are admitted exactly inside the window as R53 writes it, up to 0xF8. -/
theorem accessFault_eq_none_iff_in_window (off : Int) (bits : Nat) :
    accessFault off bits = none ↔ bits = 64 ∧ off % 8 = 0 ∧ 0 ≤ off ∧ off ≤ 0xF8 := by
  rw [accessFault_eq_none]
  omega

/-- Every named slot is admitted. -/
theorem accessFault_offset (g : Reg) : accessFault g.offset 64 = none := by
  cases g <;> rfl

theorem admittedEvent_read_iff (off : Int) (bits : Nat) :
    admittedEvent (.access (.read off bits)) = true ↔ accessFault off bits = none := Option.isNone_iff_eq_none

theorem admittedEvent_write_iff (off : Int) (bits : Nat) (v : Word) :
    admittedEvent (.access (.write off bits v)) = true ↔ accessFault off bits = none := Option.isNone_iff_eq_none

/-! ### Every command and every admitted write answers a next state -/

theorem EndsWithResult.exists_next {s base : State} {out : StepOutcome} (h : EndsWithResult s base out) :
    ∃ t, out = .next t := by
  obtain ⟨code, -, he⟩ | ⟨r0, r1, r2, r3, he⟩ := h
  · exact ⟨_, he⟩
  · exact ⟨_, he⟩

/-- An error code is a next state, not a fault (60_exceptions.md R186). -/
theorem exec_exists_next (i : Instr) (s : State) : ∃ t, exec i s = .next t := by
  cases i with
  | nop => exact ⟨_, rfl⟩
  | config nb fzl =>
    obtain ⟨code, -, he⟩ | ⟨-, he⟩ := execConfig_spec nb fzl s
    · exact ⟨_, he⟩
    · exact ⟨_, he⟩
  | quant => exact ⟨_, rfl⟩
  | dequant => exact ⟨_, rfl⟩
  | level => exact ⟨_, rfl⟩
  | thrld => exact ⟨_, rfl⟩
  | onebit => exact ⟨_, rfl⟩
  | i2b w => exact (execI2b_ends w s).exists_next
  | b2i len => exact (execB2i_ends len s).exists_next
  | i2t b => exact (execI2t_ends b s).exists_next

theorem writeCmd_exists_next (word : Word) (s : State) : ∃ t, writeCmd word s = .next t := by
  obtain ⟨i, -, he⟩ | ⟨e, -, he⟩ := writeCmd_cases word s
  · rw [he]; exact exec_exists_next i s
  · exact ⟨_, he⟩

theorem hostWrite_exists_next (off : Int) (v : Word) (s : State) : ∃ t, hostWrite off v s = .next t := by
  obtain ⟨-, he⟩ | ⟨-, he⟩ := hostWrite_cases off v s
  · rw [he]; exact writeCmd_exists_next v s
  · exact ⟨_, he⟩

/-! ### What a step does with the next event -/

theorem step_of_nextEvent {s : State} {e : HostEvent} (h : nextEvent s = some e) :
    step s = thenAdvance (performEvent e s) := by
  rw [step, h]

theorem performAccess_of_inReset {s : State} (a : Access) (h : s.inReset = true) :
    performAccess a s = .fault .busErrorInReset := by
  simp [performAccess, h]

theorem performAccess_read {s : State} {off : Int} (hline : s.inReset = false) (hadm : accessFault off 64 = none) :
    performAccess (.read off 64) s = hostRead off s := by
  simp [performAccess, hline, hadm]

theorem performAccess_write {s : State} {off : Int} (v : Word) (hline : s.inReset = false)
    (hadm : accessFault off 64 = none) : performAccess (.write off 64 v) s = hostWrite off v s := by
  simp [performAccess, hline, hadm]

/-- An access that is not admitted faults, in reset or out of it. -/
theorem performAccess_of_not_admitted {s : State} {a : Access} (h : admittedEvent (.access a) = false) :
    ∃ f, performAccess a s = .fault f := by
  cases hline : s.inReset with
  | true => exact ⟨_, performAccess_of_inReset a hline⟩
  | false =>
    cases a with
    | read off bits =>
      obtain ⟨f, hf⟩ := Option.isSome_iff_exists.1 (Option.isNone_eq_false_iff.1 h)
      exact ⟨f, by simp [performAccess, hline, hf]⟩
    | write off bits v =>
      obtain ⟨f, hf⟩ := Option.isSome_iff_exists.1 (Option.isNone_eq_false_iff.1 h)
      exact ⟨f, by simp [performAccess, hline, hf]⟩

theorem performAccess_of_admitted {s : State} {a : Access} (hline : s.inReset = false)
    (h : admittedEvent (.access a) = true) : ∃ t, performAccess a s = .next t := by
  cases a with
  | read off bits =>
    have hadm := (admittedEvent_read_iff off bits).1 h
    obtain ⟨rfl, -⟩ := (accessFault_eq_none off bits).1 hadm
    exact ⟨_, performAccess_read hline hadm⟩
  | write off bits v =>
    have hadm := (admittedEvent_write_iff off bits v).1 h
    obtain ⟨rfl, -⟩ := (accessFault_eq_none off bits).1 hadm
    rw [performAccess_write v hline hadm]
    exact hostWrite_exists_next off v s

/-! ### Bus errors -/

/-- The next event is an access that the block answers with a bus error (R53; 70_reset_and_hazards.md R200). -/
def BusError (s : State) : Prop :=
  ∃ a, nextEvent s = some (.access a) ∧ (s.inReset = true ∨ admittedEvent (.access a) = false)

/-- Outside reset, the access that comes next is a bus error exactly if it is not admitted. -/
theorem busError_iff_not_admitted {s : State} {a : Access} (hline : s.inReset = false)
    (hev : nextEvent s = some (.access a)) : BusError s ↔ ¬ admittedEvent (.access a) = true := by
  simp [BusError, hev, hline]

theorem step_fault_of_busError {s : State} (h : BusError s) : ∃ f, step s = .fault f := by
  obtain ⟨a, hev, hwhy⟩ := h
  have hfault : ∃ f, performAccess a s = .fault f :=
    hwhy.elim (fun hline => ⟨_, performAccess_of_inReset a hline⟩) performAccess_of_not_admitted
  obtain ⟨f, hf⟩ := hfault
  exact ⟨f, by rw [step_of_nextEvent hev, performEvent, hf, thenAdvance]⟩

theorem step_next_of_not_busError {s : State} (h : ¬ BusError s) : ∃ t, step s = .next t := by
  cases hev : nextEvent s with
  | none => exact ⟨s, by rw [step, hev]⟩
  | some e =>
    rw [step_of_nextEvent hev]
    cases e with
    | resetLine asserted => exact ⟨_, rfl⟩
    | access a =>
      have hline : s.inReset = false := Bool.eq_false_iff.2 fun hreset => h ⟨a, hev, .inl hreset⟩
      have hadm := not_not.1 (mt (busError_iff_not_admitted hline hev).2 h)
      obtain ⟨t, ht⟩ := performAccess_of_admitted hline hadm
      exact ⟨_, by rw [performEvent, ht, thenAdvance]⟩

/-- Settles O9: a bus error faults, and every other step answers a next state. -/
theorem stepFaultsOnlyOnABusError : Obligations.StepFaultsOnlyOnABusError := by
  intro s
  by_cases hbus : BusError s
  · obtain ⟨f, hf⟩ := step_fault_of_busError hbus
    exact ⟨fun r hr => (nomatch hf.symm.trans hr), ⟨fun _ => hbus, fun _ => ⟨f, hf⟩⟩⟩
  · obtain ⟨t, ht⟩ := step_next_of_not_busError hbus
    exact ⟨fun r hr => (nomatch ht.symm.trans hr), ⟨fun ⟨f, hf⟩ => (nomatch ht.symm.trans hf), fun h => absurd h hbus⟩⟩

/-- Settles O8: outside reset a bus error is a width or an offset that R53 does not admit. -/
theorem onlyAdmittedAccessesRun : Obligations.OnlyAdmittedAccessesRun := by
  intro s off bits v hline hev
  have hbus : BusError s ↔ ¬ (bits = 64 ∧ off % 8 = 0 ∧ 0 ≤ off ∧ off ≤ 0xF8) := by
    rw [← accessFault_eq_none_iff_in_window]
    rcases hev with hread | hwrite
    · rw [busError_iff_not_admitted hline hread, admittedEvent_read_iff]
    · rw [busError_iff_not_admitted hline hwrite, admittedEvent_write_iff]
  exact ⟨fun h => step_next_of_not_busError fun hb => hbus.1 hb h, fun h => step_fault_of_busError (hbus.2 h)⟩

/-! ### What an admitted access does -/

/-- A slot from 0x78 on holds no register (R54). -/
theorem regAt_eq_none {off : Int} (h : 0x78 ≤ off) : regAt off = none := by
  refine Option.eq_none_iff_forall_ne_some.2 fun g hg => ?_
  rw [(regAt_eq_some off g).1 hg] at h
  revert h
  cases g <;> decide

theorem readSlot_offset (g : Reg) (r : Registers) : readSlot g.offset r = readReg g r := by
  rw [readSlot, regAt_offset]

theorem readSlot_reserved {off : Int} (h : 0x78 ≤ off) (r : Registers) : readSlot off r = 0 := by
  rw [readSlot, regAt_eq_none h]

theorem hostWrite_offset_cmd (v : Word) (s : State) : hostWrite (Reg.offset .cmd) v s = writeCmd v s := by
  rw [hostWrite, regAt_offset]

/-- A step on an admitted read returns the slot's value. -/
theorem readReturns_readSlot {s : State} {off : Int} (hline : s.inReset = false) (hadm : accessFault off 64 = none) :
    ReadReturns s off (readSlot off s.regs) := by
  intro hev
  rw [step_of_nextEvent hev, performEvent, performAccess_read hline hadm]
  rfl

theorem readReturns_readReg {s : State} (hline : s.inReset = false) (g : Reg) :
    ReadReturns s g.offset (readReg g s.regs) :=
  readSlot_offset g s.regs ▸ readReturns_readSlot hline (accessFault_offset g)

/-- A step on an admitted write outside `CMD` writes the slot's register, if it has one. -/
theorem writeLeaves_writeReg {s : State} {off : Int} (v : Word) (hline : s.inReset = false)
    (hadm : accessFault off 64 = none) (hcmd : regAt off ≠ some .cmd) :
    WriteLeaves s off v (writeReg (regAt off) v s.regs) := by
  intro hev
  obtain ⟨h, -⟩ | ⟨-, he⟩ := hostWrite_cases off v s
  · exact absurd h hcmd
  · rw [step_of_nextEvent hev, performEvent, performAccess_write v hline hadm, he]
    rfl

theorem writeLeaves_offset {s : State} (v : Word) (hline : s.inReset = false) {g : Reg} (hcmd : g ≠ .cmd) :
    WriteLeaves s g.offset v (writeReg (some g) v s.regs) := by
  have hne : regAt g.offset ≠ some .cmd := by rwa [regAt_offset, Ne, Option.some_inj]
  exact regAt_offset g ▸ writeLeaves_writeReg v hline (accessFault_offset g) hne

theorem writeLeaves_reserved {s : State} {off : Int} (v : Word) (hline : s.inReset = false)
    (hadm : accessFault off 64 = none) (h : 0x78 ≤ off) : WriteLeaves s off v s.regs := by
  have hnone := regAt_eq_none h
  have hleaves := writeLeaves_writeReg v hline hadm (by rw [hnone]; nofun)
  rwa [hnone] at hleaves

theorem step_write_cmd {s : State} {v : Word} (hline : s.inReset = false)
    (hev : nextEvent s = some (.access (.write (Reg.offset .cmd) 64 v))) : step s = thenAdvance (writeCmd v s) := by
  rw [step_of_nextEvent hev, performEvent, performAccess_write v hline (accessFault_offset .cmd), hostWrite_offset_cmd]

/-- Settles O10, register by register of R55's table. -/
theorem hostAccessesHaveTheTableEffects : Obligations.HostAccessesHaveTheTableEffects := by
  intro s v hline
  have hread := readReturns_readReg hline
  have hwrite := fun g => writeLeaves_offset (g := g) v hline
  refine ⟨⟨hread .cmd, hread .status, hread .opa, hread .opb, hread .thresh, hread .res0, hread .res1, hread .res2,
      hread .res3, hread .nbits, hread .xmin, hread .xmax, hread .delta, hread .xminq, hread .maxidx⟩,
    step_write_cmd hline, hwrite .status nofun, ⟨hwrite .opa nofun, hwrite .opb nofun, hwrite .thresh nofun⟩, ?_, ?_⟩
  · simp only [List.forall_mem_cons]
    exact ⟨hwrite .res0 nofun, hwrite .res1 nofun, hwrite .res2 nofun, hwrite .res3 nofun, hwrite .nbits nofun,
      hwrite .xmin nofun, hwrite .xmax nofun, hwrite .delta nofun, hwrite .xminq nofun, hwrite .maxidx nofun, nofun⟩
  · intro off hlow hhigh haligned
    have hadm := (accessFault_eq_none_iff_in_window off 64).2 ⟨rfl, haligned, by omega, hhigh⟩
    exact ⟨readSlot_reserved hlow s.regs ▸ readReturns_readSlot hline hadm, writeLeaves_reserved v hline hadm hlow⟩

/-- The registers that a host write replaces hold the value written (10_state.md R25, R26). -/
theorem readReg_writeReg_same {g : Reg} (hg : g = .opa ∨ g = .opb ∨ g = .thresh) (v : Word) (r : Registers) :
    readReg g (writeReg (some g) v r) = v := by
  rcases hg with rfl | rfl | rfl <;> rfl

/-- Settles O11: the write's step, then the read's. -/
theorem readAfterWriteReturnsTheValue : Obligations.ReadAfterWriteReturnsTheValue := by
  intro s v g hline hg hwrite hread
  have hcmd : g ≠ .cmd := by rintro rfl; simp at hg
  have hstep := writeLeaves_offset v hline hcmd hwrite
  have hnext := readReturns_readReg (s := { s with regs := writeReg (some g) v s.regs, pos := s.pos + 1 }) hline g hread
  have hvalue := readReg_writeReg_same hg v s.regs
  exact ⟨_, _, hstep, hnext, congrArg (s.readValues ++ [·]) hvalue, rfl⟩

/-! ### The byte view -/

theorem toNat_windowByte (off : Int) (k : Nat) (r : Registers) :
    (windowByte off k r).toNat = (readSlot off r).toNat / 256 ^ k % 256 := by
  rw [windowByte, BitVec.extractLsb'_toNat, Nat.shiftRight_eq_div_pow, Nat.pow_mul]

/-- The low `m` digits of a number in base `b`, each at its place. -/
theorem sum_digits_eq_mod (n b m : Nat) :
    ((List.range m).map fun k => n / b ^ k % b * b ^ k).sum = n % b ^ m := by
  induction m with
  | zero => simp only [List.range_zero, List.map_nil, List.sum_nil, Nat.pow_zero, Nat.mod_one]
  | succ m ih => rw [List.range_succ, List.map_append, List.sum_append, ih, Nat.mod_pow_succ]; simp [Nat.mul_comm]

/-- Settles O13: a byte is eight bits of the slot, and the eight bytes are its digits in base 256. -/
theorem windowBytesAreLittleEndian : Obligations.WindowBytesAreLittleEndian := by
  intro off r
  constructor
  · intro k b _ hb
    have hbit : b < 8 := by omega
    rw [windowByte, BitVec.getLsbD_extractLsb', decide_eq_true hbit, Bool.true_and]
  · simp only [toNat_windowByte]
    have hlt : (readSlot off r).toNat < 256 ^ 8 := (readSlot off r).isLt
    rw [sum_digits_eq_mod, Nat.mod_eq_of_lt hlt]

/-! ### Two hosts -/

theorem Interleaves.symm {p q m : List HostEvent} (h : Interleaves p q m) : Interleaves q p m := by
  induction h with
  | done => exact .done
  | first e p q m _ ih => exact .second e q p m ih
  | second e p q m _ ih => exact .first e q p m ih

theorem Interleaves.sublist_left {p q m : List HostEvent} (h : Interleaves p q m) : p.Sublist m := by
  induction h with
  | done => exact .slnil
  | first e p q m _ ih => exact ih.cons_cons e
  | second e p q m _ ih => exact ih.cons e

/-- A merge holds the accesses of both lists, and no other. -/
theorem Interleaves.perm {p q m : List HostEvent} (h : Interleaves p q m) : m.Perm (p ++ q) := by
  induction h with
  | done => exact .nil
  | first e p q m _ ih => exact ih.cons e
  | second e p q m _ ih => exact (ih.cons e).trans List.perm_middle.symm

/-- Settles O51: a merge is a permutation of both lists' accesses, of which each list is a sublist. -/
theorem mergedProgramsKeepEachHostsOrder : Obligations.MergedProgramsKeepEachHostsOrder := by
  intro p q m h
  refine ⟨?_, h.sublist_left, h.symm.sublist_left, ?_⟩
  · rw [h.perm.length_eq, List.length_append]
  · rw [isHostProgram, h.perm.all_eq, List.all_append, Bool.and_eq_true]
    rfl

end Sys2Proof.Machine
end

section
/-! PROOFS of 30_encoding.md's statements. A command word is its four fields (R70); the decoder answers a command exactly when the
fields are the command's own, which is when the word is the command's encoding. Every statement reads off these two facts. -/

namespace Sys2Proof

open Machine

/-! ### The fields of a word -/

theorem opField_eq (word : Word) : opField word = word.toNat % 2 ^ 8 := by
  simp [opField, BitVec.extractLsb'_toNat]

theorem widthField_eq (word : Word) : widthField word = word.toNat / 2 ^ 8 % 2 ^ 8 := by
  simp [widthField, BitVec.extractLsb'_toNat, Nat.shiftRight_eq_div_pow]

theorem toNat_fzlField (word : Word) : (fzlField word).toNat = word.toNat / 2 ^ 16 % 2 := Nat.toNat_testBit ..

theorem rsvField_eq (word : Word) : rsvField word = word.toNat / 2 ^ 17 := by
  have := word.isLt
  rw [rsvField, BitVec.extractLsb'_toNat, Nat.shiftRight_eq_div_pow, Nat.mod_eq_of_lt (by omega)]

theorem opField_lt (word : Word) : opField word < 2 ^ 8 := BitVec.isLt _

theorem widthField_lt (word : Word) : widthField word < 2 ^ 8 := BitVec.isLt _

theorem rsvField_lt (word : Word) : rsvField word < 2 ^ 47 := BitVec.isLt _

/-- The fields lie side by side and cover the word (30_encoding.md R70). -/
theorem word_eq_iff_fields (word word' : Word) :
    word = word' ↔ rsvField word = rsvField word' ∧ fzlField word = fzlField word' ∧
      widthField word = widthField word' ∧ opField word = opField word' := by
  refine ⟨by rintro rfl; simp, fun ⟨hrsv, hfzl, hwidth, hop⟩ => BitVec.eq_of_toNat_eq ?_⟩
  have hfzl := congrArg Bool.toNat hfzl
  rw [toNat_fzlField, toNat_fzlField] at hfzl
  rw [rsvField_eq, rsvField_eq] at hrsv
  rw [widthField_eq, widthField_eq] at hwidth
  rw [opField_eq, opField_eq] at hop
  omega

/-- Masking a word masks each field. -/
theorem fields_and (word mask : Word) :
    rsvField (word &&& mask) = rsvField word &&& rsvField mask ∧ fzlField (word &&& mask) = (fzlField word && fzlField mask) ∧
    widthField (word &&& mask) = widthField word &&& widthField mask ∧
    opField (word &&& mask) = opField word &&& opField mask := by
  simp [rsvField, fzlField, widthField, opField, BitVec.extractLsb'_and]

/-- The fields of the word the assembler writes: each number is cut to its field (30_encoding.md R76). -/
theorem fields_commandWord (op w : Nat) (fzl : Bool) :
    rsvField (commandWord op w fzl) = 0 ∧ fzlField (commandWord op w fzl) = fzl ∧
    widthField (commandWord op w fzl) = w % 2 ^ 8 ∧ opField (commandWord op w fzl) = op % 2 ^ 8 := by
  have hflag := Bool.toNat_lt fzl
  have hword : (commandWord op w fzl).toNat = fzl.toNat * 2 ^ 16 + w % 2 ^ 8 * 2 ^ 8 + op % 2 ^ 8 := by
    simp only [commandWord, BitVec.toNat_append, BitVec.toNat_ofNat, BitVec.toNat_ofBool]
    rw [← Nat.shiftLeft_add_eq_or_of_lt (by omega), ← Nat.shiftLeft_add_eq_or_of_lt (by omega),
      ← Nat.shiftLeft_add_eq_or_of_lt (by omega)]
    simp only [Nat.shiftLeft_eq]
    omega
  refine ⟨?_, ?_, ?_, ?_⟩
  · rw [rsvField_eq]; omega
  · rw [Bool.eq_iff_iff, ← Bool.toNat_eq_one, ← Bool.toNat_eq_one, toNat_fzlField]; omega
  · rw [widthField_eq]; omega
  · rw [opField_eq]; omega

/-! ### The fields of a command -/

/-- The opcode of a command (30_encoding.md R73). -/
def Instr.opcode : Instr → Nat
  | .nop => 0x00
  | .config _ _ => 0x01
  | .quant => 0x02
  | .dequant => 0x03
  | .level => 0x04
  | .thrld => 0x05
  | .onebit => 0x06
  | .i2b _ => 0x10
  | .b2i _ => 0x11
  | .i2t _ => 0x12

/-- What a command puts in `W`: its width operand, or 0 if it takes none (30_encoding.md R70). -/
def Instr.widthOperand : Instr → Nat
  | .config w _ | .i2b w | .b2i w | .i2t w => w
  | _ => 0

/-- What a command puts in `FZL` (30_encoding.md R70). -/
def Instr.fzlOperand : Instr → Bool
  | .config _ fzl => fzl
  | _ => false

theorem encode_eq_commandWord (i : Instr) : encode i = commandWord i.opcode i.widthOperand i.fzlOperand := by
  cases i <;> rfl

theorem Instr.opcode_lt (i : Instr) : i.opcode < 2 ^ 8 := by
  cases i <;> simp [Instr.opcode]

theorem Instr.wellFormed_iff (i : Instr) : i.wellFormed = true ↔ i.widthOperand < 2 ^ 8 := by
  cases i <;> simp [Instr.wellFormed, Instr.widthOperand, widthFits]

/-- The fields of the word are the command's own and its reserved bits are 0. -/
def HoldsFieldsOf (word : Word) (i : Instr) : Prop :=
  rsvField word = 0 ∧ fzlField word = i.fzlOperand ∧ widthField word = i.widthOperand ∧ opField word = i.opcode

/-- The one word that holds a command's fields is the command's encoding. -/
theorem holdsFieldsOf_iff_encode (word : Word) (i : Instr) :
    HoldsFieldsOf word i ↔ i.wellFormed = true ∧ encode i = word := by
  obtain ⟨hrsv, hfzl, hwidth, hop⟩ := fields_commandWord i.opcode i.widthOperand i.fzlOperand
  rw [Nat.mod_eq_of_lt i.opcode_lt] at hop
  rw [i.wellFormed_iff, eq_comm, encode_eq_commandWord]
  constructor
  · rintro ⟨hrsv', hfzl', hwidth', hop'⟩
    have hw := hwidth' ▸ widthField_lt word
    rw [Nat.mod_eq_of_lt hw] at hwidth
    rw [word_eq_iff_fields, hrsv, hfzl, hwidth, hop]
    exact ⟨hw, hrsv', hfzl', hwidth', hop'⟩
  · rintro ⟨hw, rfl⟩
    rw [Nat.mod_eq_of_lt hw] at hwidth
    exact ⟨hrsv, hfzl, hwidth, hop⟩

/-! ### The decoder -/

theorem decodePlain_eq_ok_iff (word : Word) (i j : Instr) :
    decodePlain word i = .ok j ↔ widthField word = 0 ∧ fzlField word = false ∧ i = j := by
  unfold decodePlain
  split_ifs <;> simp_all

theorem decodeWidth_eq_ok_iff (word : Word) (mk : Nat → Instr) (j : Instr) :
    decodeWidth word mk = .ok j ↔ fzlField word = false ∧ mk (widthField word) = j := by
  unfold decodeWidth
  split_ifs <;> simp_all

/-- A command without operands that the decoder answers is the one the word holds. -/
theorem holdsFieldsOf_of_decodePlain {word : Word} {i j : Instr} (h : decodePlain word i = .ok j) (hrsv : rsvField word = 0)
    (hwidth : i.widthOperand = 0) (hfzl : i.fzlOperand = false) (hop : opField word = i.opcode) : HoldsFieldsOf word j := by
  obtain ⟨hw, hf, rfl⟩ := (decodePlain_eq_ok_iff ..).1 h
  exact ⟨hrsv, hf.trans hfzl.symm, hw.trans hwidth.symm, hop⟩

/-- A command with a width operand that the decoder answers is the one the word holds. -/
theorem holdsFieldsOf_of_decodeWidth {word : Word} {mk : Nat → Instr} {j : Instr} (h : decodeWidth word mk = .ok j)
    (hrsv : rsvField word = 0) (hwidth : ∀ w, (mk w).widthOperand = w) (hfzl : ∀ w, (mk w).fzlOperand = false)
    (hop : ∀ w, opField word = (mk w).opcode) : HoldsFieldsOf word j := by
  obtain ⟨hf, rfl⟩ := (decodeWidth_eq_ok_iff ..).1 h
  exact ⟨hrsv, hf.trans (hfzl _).symm, (hwidth _).symm, hop _⟩

theorem holdsFieldsOf_of_decode {word : Word} {i : Instr} (h : decode word = .ok i) : HoldsFieldsOf word i := by
  unfold decode at h
  split_ifs at h with hrsv
  rw [not_not] at hrsv
  split at h
  case h_2 hop => cases h; exact ⟨hrsv, rfl, rfl, hop⟩
  case h_1 hop | h_3 hop | h_4 hop | h_5 hop | h_6 hop | h_7 hop =>
    exact holdsFieldsOf_of_decodePlain h hrsv rfl rfl hop
  case h_8 hop | h_9 hop | h_10 hop =>
    exact holdsFieldsOf_of_decodeWidth h hrsv (fun _ => rfl) (fun _ => rfl) fun _ => hop
  case h_11 => cases h

theorem decode_of_holdsFieldsOf {word : Word} {i : Instr} (h : HoldsFieldsOf word i) : decode word = .ok i := by
  obtain ⟨hrsv, hfzl, hwidth, hop⟩ := h
  cases i <;> simp_all [decode, decodePlain, decodeWidth, Instr.opcode, Instr.widthOperand, Instr.fzlOperand]

/-- The decoder answers the command whose fields the word holds, and no other. -/
theorem decode_eq_ok_iff (word : Word) (i : Instr) : decode word = .ok i ↔ HoldsFieldsOf word i :=
  ⟨holdsFieldsOf_of_decode, decode_of_holdsFieldsOf⟩

theorem decode_eq_ok_iff_encode (word : Word) (i : Instr) : decode word = .ok i ↔ i.wellFormed = true ∧ encode i = word :=
  (decode_eq_ok_iff ..).trans (holdsFieldsOf_iff_encode ..)

theorem decode_error_iff (word : Word) : (∃ e, decode word = .error e) ↔ ¬ ∃ i, decode word = .ok i := by
  cases decode word <;> simp

/-- Settles O1: the encoding of a well-formed command holds its fields. -/
theorem decodeOfEncodeIsTheCommand : Obligations.DecodeOfEncodeIsTheCommand := fun i hi =>
  (decode_eq_ok_iff_encode (encode i) i).2 ⟨hi, rfl⟩

/-- Settles O2: the fields of a word determine it. -/
theorem encodeOfDecodeIsTheWord : Obligations.EncodeOfDecodeIsTheWord := fun word i => (decode_eq_ok_iff_encode word i).1

/-- Settles O5: each word is the encoding of a well-formed command, so it decodes to it. -/
theorem referenceWordsDecode : Obligations.ReferenceWordsDecode := by
  intro p hp
  have hp : p.2.wellFormed = true ∧ encode p.2 = p.1 := by revert p; decide
  rw [(decode_eq_ok_iff_encode ..).2 hp]
  exact ⟨rfl, hp.2⟩

/-! ### The commands one by one -/

/-- A property holds of some command if it holds of one of the ten forms of 30_encoding.md R73. -/
theorem Instr.exists_iff (p : Instr → Prop) :
    (∃ i, p i) ↔ p .nop ∨ (∃ nb fzl, p (.config nb fzl)) ∨ p .quant ∨ p .dequant ∨ p .level ∨ p .thrld ∨ p .onebit ∨
      (∃ w, p (.i2b w)) ∨ (∃ len, p (.b2i len)) ∨ ∃ b, p (.i2t b) := by
  constructor
  · rintro ⟨i, hi⟩
    cases i <;> grind
  · rintro (h | ⟨_, _, h⟩ | h | h | h | h | h | ⟨_, h⟩ | ⟨_, h⟩ | ⟨_, h⟩)
    all_goals exact ⟨_, h⟩

/-- The words that decode: no reserved bit, an opcode of the map, and 0 in `W` and `FZL` where the opcode does not take them
(30_encoding.md R74). -/
theorem exists_decode_iff (word : Word) :
    (∃ i, decode word = .ok i) ↔ rsvField word = 0 ∧
      (opField word = 0x01 ∨
        fzlField word = false ∧ (0x10 ≤ opField word ∧ opField word ≤ 0x12 ∨
          widthField word = 0 ∧ (opField word = 0x00 ∨ 0x02 ≤ opField word ∧ opField word ≤ 0x06))) := by
  simp only [decode_eq_ok_iff, Instr.exists_iff, HoldsFieldsOf, Instr.opcode, Instr.widthOperand, Instr.fzlOperand]
  cases fzlField word with
  | true => simp
  | false => simp; omega

/-- Settles O4: the words listed are the complement of those that decode. -/
theorem reservedWordsAreIllegal : Obligations.ReservedWordsAreIllegal := by
  constructor
  · intro word
    rw [decode_error_iff, exists_decode_iff]
    cases fzlField word <;> simp <;> omega
  · rintro word s ⟨e, he⟩
    obtain ⟨i, hi, -⟩ | ⟨-, -, hs⟩ := writeCmd_cases word s
    · exact nomatch he.symm.trans hi
    · exact hs

/-! ### The rows of the opcode table -/

/-- A word spells a row's command when each field, masked, is the row's. -/
theorem spells_iff_fields (r : TableRow) (word : Word) :
    r.spells word = true ↔
      rsvField word &&& rsvField r.mask = rsvField r.pattern ∧ (fzlField word && fzlField r.mask) = fzlField r.pattern ∧
      widthField word &&& widthField r.mask = widthField r.pattern ∧ opField word &&& opField r.mask = opField r.pattern := by
  obtain ⟨hrsv, hfzl, hwidth, hop⟩ := fields_and word r.mask
  rw [TableRow.spells, beq_iff_eq, word_eq_iff_fields, hrsv, hfzl, hwidth, hop]

/-- Every row of the table fixes `OP`, and asks 0 of `RSV` and of each of `W` and `FZL` that its mask covers. -/
theorem spells_iff_of_mem {r : TableRow} (hr : r ∈ opcodeTable) (word : Word) :
    r.spells word = true ↔
      rsvField word = 0 ∧ (fzlField r.mask = false ∨ fzlField word = false) ∧
      (widthField r.mask = 0 ∨ widthField word = 0) ∧ opField word = opField r.pattern := by
  have hrows : ∀ r ∈ opcodeTable,
      rsvField r.mask = 2 ^ 47 - 1 ∧ opField r.mask = 2 ^ 8 - 1 ∧ (widthField r.mask = 0 ∨ widthField r.mask = 2 ^ 8 - 1) ∧
      rsvField r.pattern = 0 ∧ fzlField r.pattern = false ∧ widthField r.pattern = 0 := by decide
  obtain ⟨hrsv, hop, hwidth, hrsv', hfzl', hwidth'⟩ := hrows r hr
  rw [spells_iff_fields, hrsv, hop, hrsv', hfzl', hwidth', Nat.and_two_pow_sub_one_of_lt_two_pow (rsvField_lt word),
    Nat.and_two_pow_sub_one_of_lt_two_pow (opField_lt word), Bool.and_eq_false_iff, or_comm]
  obtain hwidth | hwidth := hwidth
  · simp [hwidth]
  · simp [hwidth, Nat.and_two_pow_sub_one_of_lt_two_pow (widthField_lt word)]

/-- Row by row, the fields the row asks for are those of the commands with its mnemonic, some `W` and `FZL` left open. -/
theorem spells_iff_decode {r : TableRow} (hr : r ∈ opcodeTable) (word : Word) :
    r.spells word = true ↔ ∃ i, decode word = .ok i ∧ i.mnemonic = r.mnemonic := by
  rw [spells_iff_of_mem hr, Instr.exists_iff]
  simp only [decode_eq_ok_iff, HoldsFieldsOf, Instr.opcode, Instr.widthOperand, Instr.fzlOperand, Instr.mnemonic]
  fin_cases hr <;> simp +decide <;> intros <;> rfl

/-- Every command has a row. -/
theorem Instr.exists_row (i : Instr) : ∃ r ∈ opcodeTable, i.mnemonic = r.mnemonic := by
  cases i <;> simp [opcodeTable, Instr.mnemonic]

/-- Settles O3: the rows are disjoint because their mnemonics differ, and a word spells no row exactly when it decodes to no
command, because every command has a row. -/
theorem opcodeTableSpellsTheDecodedCommand : Obligations.OpcodeTableSpellsTheDecodedCommand := by
  refine ⟨fun word r hr => spells_iff_decode hr word, ?_, fun word => ?_⟩
  · have hnames : opcodeTable.Pairwise fun r r' => r.mnemonic ≠ r'.mnemonic := by decide
    refine hnames.imp_of_mem fun {r r'} hr hr' hne word ⟨hspells, hspells'⟩ => hne ?_
    obtain ⟨i, hi, hname⟩ := (spells_iff_decode hr word).1 hspells
    obtain ⟨i', hi', hname'⟩ := (spells_iff_decode hr' word).1 hspells'
    obtain rfl : i = i' := Except.ok.inj (hi.symm.trans hi')
    exact hname.symm.trans hname'
  · rw [decode_error_iff]
    constructor
    · rintro hnone ⟨i, hi⟩
      obtain ⟨r, hr, hname⟩ := i.exists_row
      exact Bool.eq_false_iff.1 (hnone r hr) ((spells_iff_decode hr word).2 ⟨i, hi, hname⟩)
    · intro hnone r hr
      refine Bool.eq_false_iff.2 fun hspells => hnone ?_
      obtain ⟨i, hi, -⟩ := (spells_iff_decode hr word).1 hspells
      exact ⟨i, hi⟩

end Sys2Proof
end

section
/-! PROOFS of 40_common.md's statements. A command's effect is data computed from the registers it may read (R95), and a command is
that effect carried out on the state; the statements on what each command writes and reports read off this one equation. -/

namespace Sys2Proof.Machine

/-! ### The ends of a command -/

/-- A command that ends in an error raised it, and one that ends in success leaves `ERR_STICKY` alone (R92, R93). -/
theorem CommandEnd.error_or_success {i : Instr} {s t : State} (h : CommandEnd s i t) :
    (∃ code, code ≠ .noError ∧ t = raiseError code s) ∨
    (t.regs.status.errCode = .noError ∧ t.regs.status.errSticky = s.regs.status.errSticky) := by
  cases h with
  | error hcode => exact .inl ⟨_, hcode, rfl⟩
  | nop => exact .inr ⟨rfl, rfl⟩
  | config => exact .inr ⟨rfl, rfl⟩
  | quant => exact .inr ⟨rfl, rfl⟩
  | result => exact .inr ⟨rfl, rfl⟩

/-- Settles O35: the only end with a code is `raise Error(code)`. -/
theorem errorChangesOnlyCodeAndSticky : Obligations.ErrorChangesOnlyCodeAndSticky := by
  intro i s t h hcode
  obtain ⟨code, -, rfl⟩ | ⟨hsuccess, -⟩ := (exec_commandEnd h).error_or_success
  · exact raiseError_spec code s
  · exact absurd hsuccess hcode

/-- Settles O37, end by end of a command. -/
theorem commandsPreserveTheOperands : Obligations.CommandsPreserveTheOperands := by
  intro i s t h
  cases exec_commandEnd h with
  | error => exact ⟨rfl, rfl, rfl⟩
  | nop => exact ⟨rfl, rfl, rfl⟩
  | config => exact ⟨rfl, rfl, rfl⟩
  | quant => exact ⟨rfl, rfl, rfl⟩
  | result => exact ⟨rfl, rfl, rfl⟩

/-! ### The effect of a command -/

/-- What a command does, with the words it writes. -/
inductive Effect where
  /-- `raise Error(code)` (R93) -/
  | error (code : ErrorCode)
  /-- `finish_nores()` (R92) -/
  | noResult
  /-- a configuration is committed, then `finish_nores()` (41_quantizer.md R114) -/
  | commit (nbits xmin xmax delta xminq maxidx : Word)
  /-- QUANT's flags are written, then `finish(decoded, idx, 0, 0)` (41_quantizer.md R118) -/
  | quantized (flags : QuantFlags) (decoded idx : Word)
  /-- `finish(r0, r1, r2, r3)` (R92) -/
  | result (r0 r1 r2 r3 : Word)

/-- The registers an effect leaves. -/
def Effect.onRegs : Effect → Registers → Registers
  | .error code, r => r.withStatus (r.status.withError code)
  | .noResult, r => r.withStatus r.status.withSuccess
  | .commit nbits xmin xmax delta xminq maxidx, r =>
    (r.withConfig nbits xmin xmax delta xminq maxidx).withStatus r.status.withConfigured.withSuccess
  | .quantized flags decoded idx, r =>
    (r.withResults decoded idx 0 0).withStatus (r.status.withQuantFlags flags).withSuccess
  | .result r0 r1 r2 r3, r => (r.withResults r0 r1 r2 r3).withStatus r.status.withSuccess

/-- The code an effect reports. -/
def Effect.code : Effect → ErrorCode
  | .error code => code
  | _ => .noError

theorem Effect.errCode_onRegs (e : Effect) (r : Registers) : (e.onRegs r).status.errCode = e.code := by
  cases e <;> rfl

/-- A quantizer command tests the configuration before anything else (R94). -/
def needsConfiguration (r : Registers) (e : Effect) : Effect :=
  if r.status.cfgValid then e else .error .notConfigured

/-- The effect of each command on given registers; `exec_eq_apply` ties it to the model. -/
def effect : Instr → Registers → Effect
  | .nop, _ => .noResult
  | .config nb fzl, r =>
    match configError nb fzl (opaBinary64 r) (opbBinary64 r) with
    | some code => .error code
    | none =>
      let delta := deltaOf nb (opaBinary64 r) (opbBinary64 r)
      .commit (BitVec.ofNat 64 nb) r.opa r.opb (toWord delta) (toWord (xminqOf (opaBinary64 r) delta))
        (BitVec.ofNat 64 (numLevels nb - 1))
  | .quant, r =>
    let rounded := roundedQuotient r (opaBinary64 r)
    let idx := clampedIndex r rounded
    needsConfiguration r (.quantized (quantFlags rounded (maxidxU64 r)) (toWord (value r (asU64 idx))) idx)
  | .dequant, r => needsConfiguration r (.result (toWord (value r (opaS64 r))) 0 0 0)
  | .level, r =>
    needsConfiguration r
      (if maxidxU64 r < opaU64 r then .error .range else .result (toWord (level r (opaU64 r))) 0 0 0)
  | .thrld, r =>
    needsConfiguration r
      (if thresholdCount r ≤ opaU64 r then .error .range else .result (toWord (threshold r (opaU64 r))) 0 0 0)
  | .onebit, r => .result (if fgt (opaBinary64 r) (threshBinary64 r) then 1 else 0) 0 0 0
  | .i2b w, r => if Config.bwMax < w then .error .badWidth else .result (fieldWord (intToBits (opaS64 r) w) 0) 0 0 0
  | .b2i len, r => if Config.bwMax < len then .error .badWidth else .result (fieldWord (bitsToInt r.opa len) 0) 0 0 0
  | .i2t b, r =>
    let field := intToThermometer (opaS64 r).toNat (2 ^ b)
    if Config.tbMax < b then .error .badWidth
    else if opaS64 r < 0 ∨ ((2 ^ b : Nat) : Int) < opaS64 r then .error .range
    else .result (fieldWord field 0) (fieldWord field 1) (fieldWord field 2) (fieldWord field 3)

/-- An effect changes registers only. -/
def Effect.apply (e : Effect) (s : State) : State := s.withRegs (e.onRegs s.regs)

theorem raiseError_eq_apply (code : ErrorCode) (s : State) : raiseError code s = (Effect.error code).apply s := rfl

theorem finishNores_eq_apply (s : State) : finishNores s = Effect.noResult.apply s := rfl

theorem finishNores_commitConfig_eq_apply (nbits xmin xmax delta xminq maxidx : Word) (s : State) :
    finishNores (commitConfig nbits xmin xmax delta xminq maxidx s) =
      (Effect.commit nbits xmin xmax delta xminq maxidx).apply s := rfl

theorem finish_writeQuantFlags_eq_apply (flags : QuantFlags) (decoded idx : Word) (s : State) :
    finish decoded idx 0 0 (writeQuantFlags flags s) = (Effect.quantized flags decoded idx).apply s := rfl

theorem finish_eq_apply (r0 r1 r2 r3 : Word) (s : State) :
    finish r0 r1 r2 r3 s = (Effect.result r0 r1 r2 r3).apply s := rfl

theorem ifConfigured_apply (e : Effect) (s : State) : ifConfigured s (e.apply s) = (needsConfiguration s.regs e).apply s := by
  unfold ifConfigured needsConfiguration
  split <;> rfl

theorem ite_apply (p : Prop) [Decidable p] (e e' : Effect) (s : State) :
    (if p then e.apply s else e'.apply s) = (if p then e else e').apply s := by
  split <;> rfl

/-- A command is its effect carried out on the state. -/
theorem exec_eq_apply (i : Instr) (s : State) : exec i s = .next ((effect i s.regs).apply s) := by
  cases i with
  | nop => rfl
  | config nb fzl =>
    obtain ⟨code, hcode, he⟩ | ⟨hnone, he⟩ := execConfig_spec nb fzl s
    · simp only [exec, he, effect, hcode, raiseError_eq_apply]
    · simp only [exec, he, effect, hnone, commitDerived, finishNores_commitConfig_eq_apply]
  | quant => rw [exec, execQuant, finish_writeQuantFlags_eq_apply, ifConfigured_apply, effect]
  | dequant => rw [exec, execDequant, finish_eq_apply, ifConfigured_apply, effect]
  | level => rw [exec, execLevel, raiseError_eq_apply, finish_eq_apply, ite_apply, ifConfigured_apply, effect]
  | thrld => rw [exec, execThrld, raiseError_eq_apply, finish_eq_apply, ite_apply, ifConfigured_apply, effect]
  | onebit => rw [exec, execOnebit, finish_eq_apply, effect]
  | i2b w => rw [exec, execI2b, effect, ← ite_apply, apply_ite Host.Outcome.next]; rfl
  | b2i len => rw [exec, execB2i, effect, ← ite_apply, apply_ite Host.Outcome.next]; rfl
  | i2t b => simp only [exec, execI2t, effect, ← ite_apply, apply_ite Host.Outcome.next]; rfl

theorem eq_of_exec {i : Instr} {s t : State} (h : exec i s = .next t) : t = (effect i s.regs).apply s := by
  cases (exec_eq_apply i s).symm.trans h
  rfl

/-- The code a command leaves is its effect's. -/
theorem errCode_of_exec {i : Instr} {s t : State} (h : exec i s = .next t) :
    t.regs.status.errCode = (effect i s.regs).code := by
  rw [eq_of_exec h, Effect.apply, State.withRegs_regs, Effect.errCode_onRegs]

/-! ### The configuration requirement -/

theorem needsConfiguration_of_not_valid {r : Registers} (e : Effect) (h : r.status.cfgValid = false) :
    needsConfiguration r e = .error .notConfigured := by
  simp [needsConfiguration, h]

/-- Of the commands, only QUANT, DEQUANT, LEVEL and THRLD ask for a configuration. -/
theorem code_effect_ne_notConfigured {i : Instr} (h : ¬ (i = .quant ∨ i = .dequant ∨ i = .level ∨ i = .thrld))
    (r : Registers) : (effect i r).code ≠ .notConfigured := by
  cases i with
  | nop => nofun
  | config nb fzl =>
    obtain hc | hc | hc := configError_cases nb fzl (opaBinary64 r) (opbBinary64 r) <;> simp [effect, hc, Effect.code]
  | quant | dequant | level | thrld => simp at h
  | onebit => nofun
  | i2b w => simp only [effect]; split <;> nofun
  | b2i len => simp only [effect]; split <;> nofun
  | i2t b => simp only [effect]; split_ifs <;> nofun

/-- Settles O18: on an unconfigured state the four effects are `NOT_CONFIGURED`, and no other effect has that code. -/
theorem quantizerCommandsNeedAConfiguration : Obligations.QuantizerCommandsNeedAConfiguration := by
  constructor
  · intro i s hi hv
    have heffect : effect i s.regs = .error .notConfigured := by
      rcases hi with rfl | rfl | rfl | rfl <;> exact needsConfiguration_of_not_valid _ hv
    rw [exec_eq_apply, heffect]
    rfl
  · intro i s t hi h
    rw [errCode_of_exec h]
    exact code_effect_ne_notConfigured hi s.regs

/-! ### What a successful command writes -/

/-- A quantizer command that succeeds passed the configuration test. -/
theorem needsConfiguration_of_success {r : Registers} {e : Effect} (h : (needsConfiguration r e).code = .noError) :
    needsConfiguration r e = e := by
  unfold needsConfiguration at h ⊢
  split at h
  · exact if_pos ‹_›
  · cases h

theorem effect_quant_of_success {r : Registers} (h : (effect .quant r).code = .noError) :
    ∃ flags idx, effect .quant r = .quantized flags (toWord (value r (asU64 idx))) idx := by
  rw [effect] at h ⊢
  exact ⟨_, _, needsConfiguration_of_success h⟩

/-- The flags and words of QUANT, carried out. -/
theorem apply_quantized (flags : QuantFlags) (idx : Word) (s : State) :
    (Effect.quantized flags (toWord (value s.regs (asU64 idx))) idx).apply s =
      afterQuant idx flags.lo flags.hi flags.nan s := by
  rw [← finish_writeQuantFlags_eq_apply, finish_spec, writeQuantFlags_spec, afterQuant, value, asU64,
    deltaBinary64, xminqBinary64]

theorem effect_config_of_success {nb : Nat} {fzl : Bool} {r : Registers} (h : (effect (.config nb fzl) r).code = .noError) :
    ∃ nbits xmin xmax delta xminq maxidx, effect (.config nb fzl) r = .commit nbits xmin xmax delta xminq maxidx := by
  obtain hc | hc | hc := configError_cases nb fzl (opaBinary64 r) (opbBinary64 r)
  · exact ⟨_, _, _, _, _, _, by simp only [effect, hc]; rfl⟩
  · simp [effect, hc, Effect.code] at h
  · simp [effect, hc, Effect.code] at h

/-- A check that succeeds leaves the effect it guards. -/
theorem ite_error_of_success {p : Prop} [Decidable p] {code : ErrorCode} {e : Effect} (hcode : code ≠ .noError)
    (h : (if p then Effect.error code else e).code = .noError) : (if p then Effect.error code else e) = e := by
  split at h
  · exact absurd h hcode
  · exact if_neg ‹_›

/-- The commands with a single result word write 0 to the other three. -/
theorem effect_single_of_success {i : Instr} {r : Registers}
    (hi : i = .dequant ∨ i = .level ∨ i = .thrld ∨ i = .onebit ∨ (∃ w, i = .i2b w) ∨ (∃ len, i = .b2i len))
    (h : (effect i r).code = .noError) : ∃ r0, effect i r = .result r0 0 0 0 := by
  rcases hi with rfl | rfl | rfl | rfl | ⟨w, rfl⟩ | ⟨len, rfl⟩
  · exact ⟨_, needsConfiguration_of_success h⟩
  · have hconf := needsConfiguration_of_success h
    exact ⟨_, hconf.trans (ite_error_of_success nofun (hconf ▸ h))⟩
  · have hconf := needsConfiguration_of_success h
    exact ⟨_, hconf.trans (ite_error_of_success nofun (hconf ▸ h))⟩
  · exact ⟨_, rfl⟩
  · exact ⟨_, ite_error_of_success nofun h⟩
  · exact ⟨_, ite_error_of_success nofun h⟩

/-- A word of a field that starts at or beyond the field's end is 0. -/
theorem fieldWord_eq_zero {field len m : Nat} (hfield : field < 2 ^ len) (hm : len ≤ 64 * m) : fieldWord field m = 0 := by
  have hlt : field < 2 ^ (64 * m) := hfield.trans_le (Nat.pow_le_pow_right Nat.two_pos hm)
  rw [fieldWord, Nat.div_eq_of_lt hlt]
  rfl

/-- I2T spreads a field of `2^b` bits over the result words. -/
theorem effect_i2t_of_success {b : Nat} {r : Registers} (h : (effect (.i2t b) r).code = .noError) :
    ∃ field < 2 ^ 2 ^ b, effect (.i2t b) r =
      .result (fieldWord field 0) (fieldWord field 1) (fieldWord field 2) (fieldWord field 3) := by
  have hwidth := ite_error_of_success (code := .badWidth) nofun h
  exact ⟨_, fieldOfBits_lt .., hwidth.trans (ite_error_of_success (code := .range) nofun (hwidth ▸ h))⟩

/-- Settles O36: a successful command's effect is of its own kind, and the words of I2T beyond its `2^b` bits are 0. -/
theorem successWritesEveryResultWord : Obligations.SuccessWritesEveryResultWord := by
  refine ⟨fun _ _ _ _ _ => ⟨rfl, rfl⟩, fun i s t h hcode => ?_⟩
  have hsticky : t.regs.status.errSticky = s.regs.status.errSticky := by
    obtain ⟨code, herror, rfl⟩ | ⟨-, hsticky⟩ := (exec_commandEnd h).error_or_success
    · exact absurd hcode herror
    · exact hsticky
  have ht := eq_of_exec h
  rw [errCode_of_exec h] at hcode
  have hconfig : (∃ nb fzl, i = .config nb fzl) →
      ∃ nbits xmin xmax delta xminq maxidx, t = afterConfig nbits xmin xmax delta xminq maxidx s := by
    rintro ⟨nb, fzl, rfl⟩
    obtain ⟨nbits, xmin, xmax, delta, xminq, maxidx, he⟩ := effect_config_of_success hcode
    exact ⟨nbits, xmin, xmax, delta, xminq, maxidx, by rw [ht, he]; rfl⟩
  refine ⟨hsticky, ?_, ?_, hconfig, ?_, ?_, ?_⟩
  · rintro (rfl | hi)
    · rw [ht]; rfl
    · obtain ⟨_, _, _, _, _, _, rfl⟩ := hconfig hi
      rfl
  · rintro rfl
    exact ht
  · rintro rfl
    obtain ⟨flags, idx, he⟩ := effect_quant_of_success hcode
    exact ⟨idx, flags.lo, flags.hi, flags.nan, by rw [ht, he, apply_quantized]⟩
  · intro hi
    obtain ⟨r0, he⟩ := effect_single_of_success hi hcode
    exact ⟨r0, by rw [ht, he]; rfl⟩
  · rintro b rfl
    obtain ⟨field, hfield, he⟩ := effect_i2t_of_success hcode
    have hlen : ∀ {c}, b ≤ c → 2 ^ b ≤ 2 ^ c := Nat.pow_le_pow_right Nat.two_pos
    refine ⟨_, _, _, _, by rw [ht, he]; rfl, fun hb => fieldWord_eq_zero hfield (hlen hb), fun hb => ?_⟩
    exact ⟨fieldWord_eq_zero hfield (hlen hb), fieldWord_eq_zero hfield ((hlen hb).trans (by decide))⟩

/-! ### Determinism -/

/-- No command reads a result word. -/
theorem effect_withResults (i : Instr) (r0 r1 r2 r3 : Word) (r : Registers) :
    effect i (r.withResults r0 r1 r2 r3) = effect i r := by
  cases i <;> rfl

theorem effect_of_sameInputs {r₁ r₂ : Registers} (h : sameInputs r₁ r₂) (i : Instr) : effect i r₁ = effect i r₂ :=
  calc effect i r₁ = effect i (r₁.withResults 0 0 0 0) := (effect_withResults i 0 0 0 0 r₁).symm
    _ = effect i (r₂.withResults 0 0 0 0) := congrArg (effect i) h
    _ = effect i r₂ := effect_withResults i 0 0 0 0 r₂

/-- What an effect leaves outside the result words does not depend on them. -/
theorem Effect.onRegs_withResults (e : Effect) (r : Registers) :
    (e.onRegs r).withResults 0 0 0 0 = (e.onRegs (r.withResults 0 0 0 0)).withResults 0 0 0 0 := by
  cases e <;> rfl

theorem Effect.sameInputs_onRegs {r₁ r₂ : Registers} (h : sameInputs r₁ r₂) (e : Effect) :
    sameInputs (e.onRegs r₁) (e.onRegs r₂) := by
  rw [sameInputs, e.onRegs_withResults r₁, e.onRegs_withResults r₂, h]

/-- An effect writes all four result words, with words of its own, or none. -/
theorem Effect.results_onRegs (e : Effect) (r₁ r₂ : Registers) :
    results (e.onRegs r₁) = results (e.onRegs r₂) ∨
      (results (e.onRegs r₁) = results r₁ ∧ results (e.onRegs r₂) = results r₂) := by
  cases e with
  | error => exact .inr ⟨rfl, rfl⟩
  | noResult => exact .inr ⟨rfl, rfl⟩
  | commit => exact .inr ⟨rfl, rfl⟩
  | quantized => exact .inl rfl
  | result => exact .inl rfl

/-- Settles O40: states with the same inputs have the same effect, which acts on both alike. -/
theorem commandsAreAFunctionOfTheirInputs : Obligations.CommandsAreAFunctionOfTheirInputs := by
  intro i s₁ s₂ t₁ t₂ hsame h₁ h₂
  rw [eq_of_exec h₁, eq_of_exec h₂, effect_of_sameInputs hsame i]
  exact ⟨Effect.sameInputs_onRegs hsame _, Effect.results_onRegs _ s₁.regs s₂.regs⟩

/-! ### The step of a command -/

theorem step_of_commandArrives {s : State} {word : Word} (h : CommandArrives s word) :
    step s = thenAdvance (writeCmd word s) := by
  obtain ⟨hline, hev⟩ := h
  exact step_write_cmd hline hev

theorem writeCmd_of_decode_ok {word : Word} {i : Instr} (h : decode word = .ok i) (s : State) :
    writeCmd word s = exec i s := by
  rw [writeCmd, h]

theorem writeCmd_of_decode_error {word : Word} {e : IllegalWord} (h : decode word = .error e) (s : State) :
    writeCmd word s = execIllegal s := by
  rw [writeCmd, h]

/-- Settles O6, by what the word decodes to. -/
theorem stepRunsTheDecodedCommand : Obligations.StepRunsTheDecodedCommand := by
  intro s word harrives
  rw [step_of_commandArrives harrives]
  refine ⟨fun i hi => ?_, fun i t hi ht => ?_, fun e he => ?_⟩
  · rw [writeCmd_of_decode_ok hi]
  · rw [writeCmd_of_decode_ok hi, ht]; rfl
  · rw [writeCmd_of_decode_error he]; rfl

/-- Settles O7: an illegal word runs `raise Error(ILLEGAL)`. -/
theorem illegalOnlyRecordsTheError : Obligations.IllegalOnlyRecordsTheError := by
  refine ⟨fun s => congrArg Host.Outcome.next (raiseError_spec .illegal s), rfl,
    fun s word harrives hword => ?_, fun s hs => ?_⟩
  · cases hdecode : decode word with
    | ok i => simp [hdecode, Except.toOption] at hword
    | error e => exact ⟨_, rfl, by rw [step_of_commandArrives harrives, writeCmd_of_decode_error hdecode]; rfl⟩
  · refine ⟨_, rfl, ?_⟩
    rw [raiseError, State.withRegs_regs, hs]
    refine ⟨by decide, fun g hg => ?_⟩
    cases g with
    | status => exact absurd rfl hg
    | _ => rfl

/-- Settles O14: NOP is `finish_nores`, and its word is the encoding of NOP. -/
theorem nopOnlyClearsTheErrorCode : Obligations.NopOnlyClearsTheErrorCode := by
  refine ⟨fun s => congrArg Host.Outcome.next (finishNores_spec s), fun word => ?_,
    fun s _ hsticky => ⟨_, rfl, rfl, hsticky⟩⟩
  have hencode : encode .nop = 0x0000000000000000#64 := by decide
  rw [decode_eq_ok_iff_encode, hencode, eq_comm (a := word)]
  exact and_iff_right rfl

end Sys2Proof.Machine
end

section
/-! PROOFS of 41_quantizer.md's statements. What a command of the quantizer answers is read off its effect. What the answers are
worth rests on one reading of a committed configuration (`HoldsTable`): a positive `DELTA`, a finite `XMINQ` that is not -0, and at
most 2^32 levels. The array accesses of R135 to R138 are put together from rules for one access each (`Performs`). -/

namespace Sys2Proof.Machine

/-! ### The effects with the states that statements write out -/

theorem apply_error (code : ErrorCode) (s : State) : (Effect.error code).apply s = afterError code s := rfl

theorem apply_result (r0 r1 r2 r3 : Word) (s : State) :
    (Effect.result r0 r1 r2 r3).apply s = afterResult r0 r1 r2 r3 s := rfl

/-! ### CONFIG -/

theorem configError_eq_unsupported_iff (nb : Nat) (fzl : Bool) (lo hi : Binary64) :
    configError nb fzl lo hi = some .unsupported ↔ fzl = true := by
  cases fzl with
  | true => simp [configError]
  | false => simp [configError, ite_eq_iff]

/-- Without `FZL`, a configuration that meets a condition of R113 has only one code left. -/
theorem configError_of_badConfiguration {nb : Nat} {lo hi : Binary64} (h : BadConfiguration nb lo hi) :
    configError nb false lo hi = some .badConfig := by
  obtain hc | hc | hc := configError_cases nb false lo hi
  · exact absurd h ((configError_eq_none_iff ..).1 hc).2
  · exact nomatch (configError_eq_unsupported_iff ..).1 hc
  · exact hc

theorem effect_config_of_error {nb : Nat} {fzl : Bool} {r : Registers} {code : ErrorCode}
    (h : configError nb fzl (opaBinary64 r) (opbBinary64 r) = some code) :
    effect (.config nb fzl) r = .error code := by
  simp only [effect, h]

/-- Settles O16: `FZL` is the first check. -/
theorem forceZeroLevelIsUnsupported : Obligations.ForceZeroLevelIsUnsupported := by
  intro nb s
  rw [exec_eq_apply, effect_config_of_error ((configError_eq_unsupported_iff ..).2 rfl), apply_error]

/-- Settles O17: the four conditions of R113 share one code. -/
theorem invalidConfigurationIsRejected : Obligations.InvalidConfigurationIsRejected := by
  intro nb s h
  rw [exec_eq_apply, effect_config_of_error (configError_of_badConfiguration h), apply_error]

/-- Settles O15: past its checks, CONFIG commits the values of R111. -/
theorem configCommitsAValidConfiguration : Obligations.ConfigCommitsAValidConfiguration := by
  intro nb s h
  have hnone : configError nb false (opaBinary64 s.regs) (opbBinary64 s.regs) = none :=
    (configError_eq_none_iff ..).2 ⟨rfl, h⟩
  simp only [exec_eq_apply, effect, hnone]
  rfl

/-! ### The answers of the other commands -/

/-- On a configured state a quantizer command does what follows the configuration test. -/
theorem needsConfiguration_of_valid {r : Registers} (e : Effect) (h : r.status.cfgValid = true) :
    needsConfiguration r e = e := by
  simp [needsConfiguration, h]

theorem exec_quant_of_valid {s : State} {rounded : Binary64} (h : s.regs.status.cfgValid = true)
    (hrounded : roundedQuotient s.regs (ofWord s.regs.opa) = rounded) :
    exec .quant s = .next (afterQuant (clampedIndex s.regs rounded) (quantFlags rounded s.regs.maxidx.toNat).lo
      (quantFlags rounded s.regs.maxidx.toNat).hi (quantFlags rounded s.regs.maxidx.toNat).nan s) := by
  subst hrounded
  rw [exec_eq_apply, effect, needsConfiguration_of_valid _ h, apply_quantized]
  rfl

theorem exec_dequant_of_valid {s : State} (h : s.regs.status.cfgValid = true) :
    exec .dequant s = .next (afterResult (toWord (value s.regs s.regs.opa.toInt)) 0 0 0 s) := by
  rw [exec_eq_apply, effect, needsConfiguration_of_valid _ h, apply_result, opaS64, asS64]

theorem effect_level_of_le {r : Registers} (h : r.status.cfgValid = true) (hle : r.opa.toNat ≤ r.maxidx.toNat) :
    effect .level r = .result (toWord (level r r.opa.toNat)) 0 0 0 := by
  rw [effect, needsConfiguration_of_valid _ h]
  exact if_neg (Nat.not_lt.2 hle)

theorem effect_level_of_lt {r : Registers} (h : r.status.cfgValid = true) (hlt : r.maxidx.toNat < r.opa.toNat) :
    effect .level r = .error .range := by
  rw [effect, needsConfiguration_of_valid _ h]
  exact if_pos hlt

/-- A position is beyond the thresholds exactly if it is not below `2^NBITS - 2` (R128). -/
theorem thresholdCount_le_iff (r : Registers) (i : Nat) : thresholdCount r ≤ i ↔ 2 ^ r.nbits.toNat ≤ i + 2 := by
  rw [thresholdCount, nbitsU64, asU64, sub_le_iff_le_add]
  exact_mod_cast Iff.rfl

theorem effect_thrld_of_lt {r : Registers} (h : r.status.cfgValid = true) (hlt : r.opa.toNat + 2 < 2 ^ r.nbits.toNat) :
    effect .thrld r = .result (toWord (threshold r r.opa.toNat)) 0 0 0 := by
  rw [effect, needsConfiguration_of_valid _ h]
  exact if_neg fun hle => Nat.not_le.2 hlt ((thresholdCount_le_iff ..).1 hle)

theorem effect_thrld_of_le {r : Registers} (h : r.status.cfgValid = true) (hle : 2 ^ r.nbits.toNat ≤ r.opa.toNat + 2) :
    effect .thrld r = .error .range := by
  rw [effect, needsConfiguration_of_valid _ h]
  exact if_pos ((thresholdCount_le_iff ..).2 hle)

/-- Settles O22: DEQUANT has no check after the configuration test. -/
theorem dequantComputesTheFormula : Obligations.DequantComputesTheFormula := by
  intro s h
  rw [exec_dequant_of_valid h, value, deltaBinary64, xminqBinary64]

/-- Settles O24: the positions split at `MAXIDX`. -/
theorem levelReadsOneEntry : Obligations.LevelReadsOneEntry := by
  intro s h
  refine ⟨fun hle => ?_, fun hlt => ?_⟩
  · rw [exec_eq_apply, effect_level_of_le h hle, apply_result, level, xminqBinary64, deltaBinary64]
  · rw [exec_eq_apply, effect_level_of_lt h hlt, apply_error]

/-- Settles O26: the positions split at the number of thresholds, which is 0 for one bit. -/
theorem thrldReadsOneThreshold : Obligations.ThrldReadsOneThreshold := by
  intro s h
  have hrange : 2 ^ s.regs.nbits.toNat ≤ s.regs.opa.toNat + 2 → exec .thrld s = .next (afterError .range s) := fun hle => by
    rw [exec_eq_apply, effect_thrld_of_le h hle, apply_error]
  refine ⟨fun hlt => ?_, hrange, fun hone => hrange ?_⟩
  · rw [exec_eq_apply, effect_thrld_of_lt h hlt, apply_result, threshold, level, level, xminqBinary64, deltaBinary64]
  · rw [hone]
    exact Nat.le_add_left 2 _

theorem flt_self (a : Binary64) : flt a a = false := by
  rw [Bool.eq_false_iff, Ne, flt_iff]
  rintro ⟨x, y, hx, hy, hlt⟩
  exact hlt.ne (Option.some_inj.1 (hx.symm.trans hy))

theorem effect_onebit (r : Registers) :
    effect .onebit r = .result (if fgt (ofWord r.opa) (ofWord r.thresh) then 1 else 0) 0 0 0 := rfl

/-- Settles O27: the comparison is strict, so equal operands answer 0, and quiet, so a NaN does too. -/
theorem onebitComparesStrictly : Obligations.OnebitComparesStrictly := by
  intro s
  have hzero : fgt (ofWord s.regs.opa) (ofWord s.regs.thresh) = false → exec .onebit s = .next (afterResult 0 0 0 0 s) := by
    intro h
    rw [exec_eq_apply, effect_onebit, apply_result, h, if_neg Bool.false_ne_true]
  refine ⟨fun h => ?_, hzero, fun h => hzero ?_⟩
  · rw [exec_eq_apply, effect_onebit, apply_result, h, if_pos rfl]
  · rcases h with heq | hnan
    · rw [heq]
      exact flt_self _
    · exact flt_of_isnan hnan.symm

/-- Settles O19, case by case of R117 step 3. -/
theorem quantClampsTheRoundedQuotient : Obligations.QuantClampsTheRoundedQuotient := by
  intro s h rounded
  have hexec := exec_quant_of_valid (rounded := rounded) h rfl
  have hmaxidx : maxidxU64 s.regs = s.regs.maxidx.toNat := rfl
  refine ⟨fun hnan => ?_, fun hnum hlo => ?_, fun hnum hlo hhi => ?_, fun hnum hlo hhi => ?_⟩
  · simp [hexec, clampedIndex, quantFlags, hnan]
  · simp [hexec, clampedIndex, quantFlags, hnum, hlo]
  · simp [hexec, clampedIndex, quantFlags, hnum, hlo, hmaxidx, hhi]
  · simp [hexec, clampedIndex, quantFlags, hnum, hlo, hmaxidx, hhi]

/-! ### Rounding keeps the order -/

/-- Of two exact values the larger rounds to no less: were the rounded pair in the other order, each value would lie on the far side
of the midpoint between them. -/
theorem roundUnits_mono {num num' den : Nat} (hden : 0 < den) (h : num ≤ num') :
    roundUnits num den ≤ roundUnits num' den := by
  rcases h.eq_or_lt with rfl | hlt
  · exact le_rfl
  obtain ⟨hrep, hnearest⟩ := roundingIsToNearestTiesToEven num den hden
  obtain ⟨hrep', hnearest'⟩ := roundingIsToNearestTiesToEven num' den hden
  have hle := (hnearest _ hrep').1
  have hle' := (hnearest' _ hrep).1
  by_contra hcross
  have hmul := Nat.mul_lt_mul_of_pos_right (not_le.1 hcross) hden
  simp only [distanceFrom, ← Nat.cast_mul] at hle hle'
  omega

theorem representable_zero : Representable 0 := isMagnitude_zero.1

theorem roundUnits_zero {den : Nat} (hden : 0 < den) : roundUnits 0 den = 0 := by
  simpa using roundUnits_mul_den hden representable_zero

/-- A whole number of units above 0 does not round to 0. -/
theorem roundUnits_pos {num : Nat} (h : 0 < num) : 0 < roundUnits num 1 := by
  have hone : Representable 1 := by simpa using representable_mul_two_pow_of_lt (k := 1) (by norm_num) 0
  have hround : roundUnits 1 1 = 1 := roundUnits_mul_den Nat.one_pos hone
  have hmono : roundUnits 1 1 ≤ roundUnits num 1 := roundUnits_mono Nat.one_pos h
  omega

theorem roundTo_zero (neg : Bool) {den : Nat} (hden : 0 < den) : roundTo neg 0 den = .fin neg 0 := by
  simpa [roundUnits_zero hden] using (roundTo_of_le neg hden isMagnitude_zero (Nat.zero_le _)).1

/-- What is no more than an exact value that rounds to a finite number does so too. -/
theorem roundTo_of_le_of_lt (neg : Bool) {num num' den : Nat} (hden : 0 < den) (h : num ≤ num')
    (hfin : roundUnits num' den < overflowUnits) : roundTo neg num den = .fin neg (roundUnits num den) :=
  if_pos ((roundUnits_mono hden h).trans_lt hfin)

theorem flt_fin_false_zero (units : Nat) : flt (.fin false units) (.fin false 0) = false := by
  simp [flt, signedUnits]

theorem eq_zero_of_flt_fin_true_zero {units : Nat} (h : flt (.fin true units) (.fin false 0) = false) : units = 0 := by
  simpa [flt, signedUnits] using h

/-- Of two magnitudes the larger is rounded to no less, also where it overflows. -/
theorem flt_roundTo_false {num num' den : Nat} (hden : 0 < den) (h : num ≤ num') :
    flt (roundTo false num' den) (roundTo false num den) = false := by
  have hmono := roundUnits_mono hden h
  rcases roundTo_cases false num' den with ⟨hfin, heq⟩ | ⟨-, heq⟩
  · rw [heq, roundTo_of_le_of_lt false hden h hfin]
    simpa [flt, signedUnits] using hmono
  · rw [heq]
    rcases roundTo_cases false num den with ⟨-, heq'⟩ | ⟨-, heq'⟩ <;> rw [heq'] <;> rfl

/-- Of two negated magnitudes the larger is rounded to no more. -/
theorem flt_roundTo_true {num num' den : Nat} (hden : 0 < den) (h : num ≤ num') :
    flt (roundTo true num den) (roundTo true num' den) = false := by
  have hmono := roundUnits_mono hden h
  rcases roundTo_cases true num' den with ⟨hfin, heq⟩ | ⟨-, heq⟩
  · rw [heq, roundTo_of_le_of_lt true hden h hfin]
    simpa [flt, signedUnits] using hmono
  · rw [heq]
    rcases roundTo_cases true num den with ⟨-, heq'⟩ | ⟨-, heq'⟩ <;> rw [heq'] <;> rfl

theorem flt_roundTo_false_true (num num' den den' : Nat) :
    flt (roundTo false num den) (roundTo true num' den') = false := by
  rcases roundTo_cases false num den with ⟨-, heq⟩ | ⟨-, heq⟩
  · rcases roundTo_cases true num' den' with ⟨-, heq'⟩ | ⟨-, heq'⟩
    · rw [heq, heq']
      simp only [flt, signedUnits, decide_eq_false_iff_not]
      simp
    · rw [heq, heq']; rfl
  · rcases roundTo_cases true num' den' with ⟨-, heq'⟩ | ⟨-, heq'⟩ <;> rw [heq, heq'] <;> rfl

/-- A finite sum is one rounding under a sign that the exact sum can have; at zero both signs can be. -/
theorem addFinite_eq_roundTo (na nb : Bool) (ua ub : Nat) {sum : Int}
    (h : signedUnits na ua + signedUnits nb ub = sum) :
    ∃ neg, addFinite na ua nb ub = roundTo neg sum.natAbs 1 ∧ (neg = true → sum ≤ 0) ∧ (neg = false → 0 ≤ sum) := by
  obtain ⟨hround, hzero⟩ := addFinite_eq na nb ua ub h
  by_cases h0 : sum = 0
  · subst h0
    exact ⟨na && nb, (hzero rfl).trans (roundTo_zero _ Nat.one_pos).symm, fun _ => le_rfl, fun _ => le_rfl⟩
  · exact ⟨_, hround h0, fun hneg => (of_decide_eq_true hneg).le, fun hpos => not_lt.1 (of_decide_eq_false hpos)⟩

/-- Of two sums with one addend in common the larger exact one is no less after rounding. -/
theorem flt_addFinite_of_le {na nb nb' : Bool} {ua ub ub' : Nat} (h : signedUnits nb ub ≤ signedUnits nb' ub') :
    flt (addFinite na ua nb' ub') (addFinite na ua nb ub) = false := by
  obtain ⟨neg, heq, hneg, hpos⟩ := addFinite_eq_roundTo na nb ua ub rfl
  obtain ⟨neg', heq', hneg', hpos'⟩ := addFinite_eq_roundTo na nb' ua ub' rfl
  rw [heq, heq']
  cases neg' with
  | false =>
    cases neg with
    | false =>
      have := hpos rfl
      exact flt_roundTo_false Nat.one_pos (by omega)
    | true => exact flt_roundTo_false_true ..
  | true =>
    have hle' := hneg' rfl
    cases neg with
    | false =>
      have hge := hpos rfl
      rw [show (signedUnits na ua + signedUnits nb' ub').natAbs = 0 by omega,
        show (signedUnits na ua + signedUnits nb ub).natAbs = 0 by omega, roundTo_zero _ Nat.one_pos,
        roundTo_zero _ Nat.one_pos, flt_zeros]
    | true => exact flt_roundTo_true Nat.one_pos (by omega)

/-- The same where the other addend is itself a rounding, which may overflow. -/
theorem flt_fadd_roundTo_of_le (neg : Bool) (u : Nat) {num num' den : Nat} (hden : 0 < den) (h : num ≤ num') :
    flt (fadd (.fin neg u) (roundTo false num' den)) (fadd (.fin neg u) (roundTo false num den)) = false := by
  rcases roundTo_cases false num' den with ⟨hfin, heq⟩ | ⟨-, heq⟩
  · rw [heq, roundTo_of_le_of_lt false hden h hfin]
    exact flt_addFinite_of_le (Int.ofNat_le.2 (roundUnits_mono hden h))
  · have hinf : ∀ a, flt (fadd (.fin neg u) (.inf false)) a = false := fun a => by cases a <;> rfl
    rw [heq, hinf]

/-! ### Sums, products and quotients with one finite operand -/

theorem isnan_fadd_fin {a : Binary64} (h : isnan a = false) (neg : Bool) (u : Nat) :
    isnan (fadd a (.fin neg u)) = false :=
  isnan_fadd a _ h rfl (by simp)

/-- A sum with a finite number does not depend on the order; a NaN could, by its pattern (log 6). -/
theorem fadd_fin_comm {a : Binary64} (h : isnan a = false) (neg : Bool) (u : Nat) :
    fadd a (.fin neg u) = fadd (.fin neg u) a := by
  cases a with
  | nan pattern => cases h
  | inf na => simp only [fadd, addOrNaN]
  | fin na ua => simp only [fadd, addOrNaN, addFinite, add_comm (signedUnits na ua), Bool.and_comm na]

theorem ofWord_toWord_roundTo (neg : Bool) (num : Nat) {den : Nat} (hden : 0 < den) :
    ofWord (toWord (roundTo neg num den)) = roundTo neg num den := by
  have hagree := patternsAndNumbersAgree
  unfold Obligations.PatternsAndNumbersAgree at hagree
  exact hagree.right neg num den hden

/-- A sum with a finite number comes back from its pattern: it is an infinity or it was rounded. -/
theorem ofWord_toWord_fadd_fin {a : Binary64} (h : isnan a = false) (neg : Bool) (u : Nat) :
    ofWord (toWord (fadd a (.fin neg u))) = fadd a (.fin neg u) := by
  cases a with
  | nan pattern => cases h
  | inf na => exact ofWord_signed_inf na
  | fin na ua =>
    obtain ⟨sign, heq, -⟩ := addFinite_eq_roundTo na neg ua u rfl
    have hsum : fadd (.fin na ua) (.fin neg u) = addFinite na ua neg u := rfl
    rw [hsum, heq, ofWord_toWord_roundTo sign _ Nat.one_pos]

/-- Adding +0 answers no -0. -/
theorem fadd_zero_ne_neg_zero (a : Binary64) : fadd a (.fin false 0) ≠ .fin true 0 := by
  cases a with
  | nan pattern => nofun
  | inf na => nofun
  | fin na ua =>
    obtain ⟨hround, hzero⟩ := addFinite_eq na false ua 0 rfl
    have hsum : fadd (.fin na ua) (.fin false 0) = addFinite na ua false 0 := rfl
    rw [hsum]
    by_cases h0 : signedUnits na ua + signedUnits false 0 = 0
    · rw [hzero h0, Bool.and_false]
      nofun
    · rw [hround h0]
      intro h
      have hpos := roundUnits_pos (Int.natAbs_pos.2 h0)
      rcases roundTo_cases (decide (signedUnits na ua + signedUnits false 0 < 0))
        (signedUnits na ua + signedUnits false 0).natAbs 1 with ⟨-, heq⟩ | ⟨-, heq⟩
      · obtain ⟨-, hunits⟩ := Binary64.fin.inj (heq.symm.trans h)
        omega
      · exact nomatch heq.symm.trans h

/-- Adding +0 leaves a finite number other than -0 as it is. -/
theorem fadd_zero_of_isMagnitude {neg : Bool} {u : Nat} (hu : IsMagnitude u) (hsign : u = 0 → neg = false) :
    fadd (.fin neg u) (.fin false 0) = .fin neg u := by
  obtain ⟨hround, hzero⟩ := addFinite_eq neg false u 0 (sum := signedUnits neg u) (add_zero _)
  have habs := natAbs_signedUnits neg u
  have hsum : fadd (.fin neg u) (.fin false 0) = addFinite neg u false 0 := rfl
  rw [hsum]
  by_cases h0 : u = 0
  · rw [hzero (by omega), h0, hsign h0, Bool.false_and]
  · have hneg : decide (signedUnits neg u < 0) = neg := by
      cases neg <;> simp [signedUnits]; omega
    rw [hround (by omega), habs, hneg]
    exact roundTo_of_representable neg hu.1 hu.2

theorem isnan_fsub_fin {a : Binary64} (h : isnan a = false) (neg : Bool) (u : Nat) :
    isnan (fsub a (.fin neg u)) = false := by
  cases a with
  | nan pattern => cases h
  | inf na => rfl
  | fin na ua => exact isnan_addFinite ..

/-- The difference of a finite number and itself is +0. -/
theorem fsub_self_fin (neg : Bool) (u : Nat) : fsub (.fin neg u) (.fin neg u) = .fin false 0 := by
  have hsum : signedUnits neg u + signedUnits (!neg) u = 0 := by rw [signedUnits_not]; omega
  have hdiff : fsub (.fin neg u) (.fin neg u) = addFinite neg u (!neg) u := rfl
  rw [hdiff, (addFinite_eq _ _ _ _ hsum).2 rfl, Bool.and_not_self]

theorem isnan_fmul_fin {a : Binary64} (h : isnan a = false) (neg : Bool) {u : Nat} (hu : 0 < u) :
    isnan (fmul a (.fin neg u)) = false := by
  cases a with
  | nan pattern => cases h
  | inf na => simp [fmul, hu.ne', isnan]
  | fin na ua => exact isnan_roundTo ..

theorem isnan_fdiv_fin {a : Binary64} (h : isnan a = false) (neg : Bool) {u : Nat} (hu : 0 < u) :
    isnan (fdiv a (.fin neg u)) = false := by
  cases a with
  | nan pattern => cases h
  | inf na => rfl
  | fin na ua => simp [fdiv, hu.ne']

theorem fdiv_zero_fin {u : Nat} (hu : 0 < u) : fdiv (.fin false 0) (.fin false u) = .fin false 0 := by
  have hdiv : fdiv (.fin false 0) (.fin false u) = roundTo false (0 * oneUnits) u := if_neg hu.ne'
  rw [hdiv, Nat.zero_mul, roundTo_zero _ hu]

@[simp] theorem isnan_rint (a : Binary64) : isnan (rint a) = isnan a := by
  cases a <;> rfl

theorem rint_zero (neg : Bool) : rint (.fin neg 0) = .fin neg 0 := by
  simp [rint, roundWhole]

/-! ### Integers -/

theorem u2f_of_le {n : Nat} (h : n ≤ 2 ^ 53) : u2f n = .fin false (n * oneUnits) := roundTo_whole false h

theorem u2f_zero : u2f 0 = .fin false 0 := by
  rw [u2f_of_le (Nat.zero_le _), Nat.zero_mul]

theorem i2f_natCast (n : Nat) : i2f n = u2f n := by
  have hneg : decide ((n : Int) < 0) = false := by simp
  rw [i2f, hneg, Int.natAbs_natCast, u2f]

theorem fmul_u2f_zero (neg : Bool) (u : Nat) : fmul (u2f 0) (.fin neg u) = .fin neg 0 := by
  have hmul : fmul (.fin false 0) (.fin neg u) = roundTo (false ^^ neg) (0 * u) oneUnits := rfl
  rw [u2f_zero, hmul, Nat.zero_mul, roundTo_zero _ oneUnits_pos, Bool.false_xor]

/-- A whole number times a finite one is one rounding. -/
theorem fmul_u2f_of_le {n : Nat} (h : n ≤ 2 ^ 53) (u : Nat) :
    fmul (u2f n) (.fin false u) = roundTo false (n * oneUnits * u) oneUnits := by
  rw [u2f_of_le h]
  rfl

/-- `f2u` reads both zeros as 0 (41_quantizer.md R117). -/
theorem f2u_fin_zero (neg : Bool) : f2u (.fin neg 0) = 0 := by
  have hdomain : f2uStated (.fin neg 0) = true := by simp [f2uStated]
  rw [f2u, if_pos hdomain, wholePart, Nat.zero_div]
  rfl

/-! ### A committed configuration -/

/-- What the registers of a committed configuration mean: a positive `DELTA` of `d` units, a finite `XMINQ` that is not -0, and at
most 2^32 levels. -/
structure HoldsTable (r : Registers) (d : Nat) (neg : Bool) (u : Nat) : Prop where
  delta : ofWord r.delta = .fin false d
  delta_pos : 0 < d
  xminq : ofWord r.xminq = .fin neg u
  xminq_magnitude : IsMagnitude u
  xminq_sign : u = 0 → neg = false
  maxidx_lt : r.maxidx.toNat < 2 ^ 32

/-- `xmin_q` ends with the addition of `0 * delta`, which is +0, so it is not -0. -/
theorem xminqOf_ne_neg_zero (lo : Binary64) (d : Nat) : xminqOf lo (.fin false d) ≠ .fin true 0 := by
  rw [xminqOf, fmul_u2f_zero]
  exact fadd_zero_ne_neg_zero _

theorem Configured.maxidx_lt {r : Registers} (h : Configured r) : r.maxidx.toNat < 2 ^ 32 := by
  have hgood := h.not_badConfiguration
  simp only [not_or, not_lt] at hgood
  have hlevels : 2 ^ nbitsU64 r ≤ 2 ^ 32 := Nat.pow_le_pow_right Nat.two_pos hgood.1.2
  obtain ⟨-, hmaxidx, -, -⟩ := h
  rw [maxidxU64, asU64] at hmaxidx
  omega

/-- A configured state that meets the invariant of 10_state.md R35 holds a table. -/
theorem exists_holdsTable {r : Registers} (hinv : ConfigInvariant r) (hvalid : r.status.cfgValid = true) :
    ∃ d neg u, HoldsTable r d neg u := by
  obtain ⟨⟨d, hdelta, hpos⟩, -⟩ := committedDeltaIsPositiveAndFinite r hinv hvalid
  have hconfigured := hinv.2 hvalid
  have hgood := hconfigured.not_badConfiguration
  have hmaxidx := hconfigured.maxidx_lt
  obtain ⟨-, -, hdelta', hxminq⟩ := hconfigured
  have hread : deltaOf (nbitsU64 r) (ofWord r.xmin) (ofWord r.xmax) = .fin false d := by
    rw [← ofWord_toWord_deltaOf hgood, ← hdelta', hdelta]
  obtain ⟨neg, u, hfirst, hmag⟩ := xminqOf_of_valid hgood
  rw [hread] at hfirst
  rw [deltaBinary64, hdelta, hfirst] at hxminq
  refine ⟨d, neg, u, hdelta, hpos, by rw [hxminq, ofWord_toWord_fin neg hmag.1 hmag.2], hmag, ?_, hmaxidx⟩
  rintro rfl
  cases neg with
  | false => rfl
  | true => exact absurd hfirst (xminqOf_ne_neg_zero _ d)

section Table

variable {r : Registers} {d : Nat} {neg : Bool} {u : Nat}

/-! ### The levels -/

theorem HoldsTable.level_eq (h : HoldsTable r d neg u) (i : Nat) :
    level r i = fadd (.fin neg u) (fmul (u2f i) (.fin false d)) := by
  rw [level, xminqBinary64, deltaBinary64, h.xminq, h.delta]

theorem HoldsTable.value_eq (h : HoldsTable r d neg u) (n : Int) :
    value r n = fadd (fmul (i2f n) (.fin false d)) (.fin neg u) := by
  rw [value, xminqBinary64, deltaBinary64, h.xminq, h.delta]

/-- The decoded value of an unsigned index is its level: no addend is a NaN, so their order does not matter (R111). -/
theorem HoldsTable.value_natCast (h : HoldsTable r d neg u) (n : Nat) : value r n = level r n := by
  rw [h.value_eq, h.level_eq, i2f_natCast, fadd_fin_comm (isnan_fmul_fin (isnan_u2f n) false h.delta_pos)]

theorem HoldsTable.isnan_value (h : HoldsTable r d neg u) (n : Int) : isnan (value r n) = false := by
  rw [h.value_eq]
  exact isnan_fadd_fin (isnan_fmul_fin (isnan_i2f n) false h.delta_pos) neg u

theorem HoldsTable.isnan_level (h : HoldsTable r d neg u) (i : Nat) : isnan (level r i) = false := by
  rw [← h.value_natCast]
  exact h.isnan_value i

/-- A decoded value comes back from its result word. -/
theorem HoldsTable.ofWord_toWord_value (h : HoldsTable r d neg u) (n : Int) : ofWord (toWord (value r n)) = value r n := by
  rw [h.value_eq]
  exact ofWord_toWord_fadd_fin (isnan_fmul_fin (isnan_i2f n) false h.delta_pos) neg u

/-- The first level is `XMINQ`, bit for bit. -/
theorem HoldsTable.toWord_level_zero (h : HoldsTable r d neg u) : toWord (level r 0) = r.xminq := by
  rw [h.level_eq, fmul_u2f_zero, fadd_zero_of_isMagnitude h.xminq_magnitude h.xminq_sign, ← h.xminq, toWord_ofWord]

/-- A level is at most the next: the product and the sum are each rounded once, and rounding keeps the order. -/
theorem HoldsTable.flt_level_succ (h : HoldsTable r d neg u) {i : Nat} (hi : i < r.maxidx.toNat) :
    flt (level r (i + 1)) (level r i) = false := by
  have hlt := h.maxidx_lt
  have hexact : i * oneUnits * d ≤ (i + 1) * oneUnits * d :=
    Nat.mul_le_mul_right d (Nat.mul_le_mul_right oneUnits (Nat.le_succ i))
  rw [h.level_eq, h.level_eq, fmul_u2f_of_le (by omega), fmul_u2f_of_le (by omega)]
  exact flt_fadd_roundTo_of_le neg u oneUnits_pos hexact

/-! ### The quantize steps -/

theorem HoldsTable.roundedQuotient_eq (h : HoldsTable r d neg u) (x : Binary64) :
    roundedQuotient r x = rint (fdiv (fsub x (.fin neg u)) (.fin false d)) := by
  rw [roundedQuotient, xminqBinary64, deltaBinary64, h.xminq, h.delta]

/-- The rounded quotient is a NaN for a NaN only. -/
theorem HoldsTable.isnan_roundedQuotient (h : HoldsTable r d neg u) (x : Binary64) :
    isnan (roundedQuotient r x) = isnan x := by
  rw [h.roundedQuotient_eq, isnan_rint]
  cases hx : isnan x with
  | false => exact isnan_fdiv_fin (isnan_fsub_fin hx neg u) false h.delta_pos
  | true =>
    obtain ⟨-, hsub, -⟩ := isnan_arithmetic_of_isnan (b := .fin neg u) (.inl hx)
    obtain ⟨-, -, -, hdiv⟩ := isnan_arithmetic_of_isnan (b := .fin false d) (.inl hsub)
    exact hdiv

theorem HoldsTable.roundedQuotient_inf (h : HoldsTable r d neg u) (sign : Bool) :
    roundedQuotient r (.inf sign) = .inf sign := by
  have hdiv : fdiv (fsub (.inf sign) (.fin neg u)) (.fin false d) = .inf (sign ^^ false) := rfl
  rw [h.roundedQuotient_eq, hdiv, Bool.xor_false, rint]

theorem HoldsTable.roundedQuotient_xminq (h : HoldsTable r d neg u) : roundedQuotient r (ofWord r.xminq) = .fin false 0 := by
  rw [h.roundedQuotient_eq, h.xminq, fsub_self_fin, fdiv_zero_fin h.delta_pos, rint_zero]

theorem HoldsTable.u2f_maxidx (h : HoldsTable r d neg u) : u2f r.maxidx.toNat = .fin false (r.maxidx.toNat * oneUnits) :=
  u2f_of_le (h.maxidx_lt.le.trans (by norm_num))

/-- A whole number from 0 to `max_index` is an index up to `max_index`. -/
theorem HoldsTable.f2u_le (h : HoldsTable r d neg u) {sign : Bool} {k : Nat}
    (hlo : flt (.fin sign (k * oneUnits)) (.fin false 0) = false)
    (hhi : fgt (.fin sign (k * oneUnits)) (u2f r.maxidx.toNat) = false) :
    (f2u (.fin sign (k * oneUnits))).toNat ≤ r.maxidx.toNat := by
  cases sign with
  | true =>
    have hzero : k * oneUnits = 0 := eq_zero_of_flt_fin_true_zero hlo
    rw [hzero, f2u_fin_zero]
    exact Nat.zero_le _
  | false =>
    have hunits : k * oneUnits ≤ r.maxidx.toNat * oneUnits := by
      rw [h.u2f_maxidx] at hhi
      exact Int.ofNat_le.1 (not_lt.1 (of_decide_eq_false hhi))
    have hle : k ≤ r.maxidx.toNat := Nat.le_of_mul_le_mul_right hunits oneUnits_pos
    have hlt := h.maxidx_lt
    rw [f2u_whole (by omega), BitVec.toNat_ofNat]
    exact (Nat.mod_le _ _).trans hle

/-- Whatever the quotient, the clamped index is one of the table (R120). -/
theorem HoldsTable.clampedIndex_le (h : HoldsTable r d neg u) (x : Binary64) :
    (clampedIndex r (roundedQuotient r x)).toNat ≤ r.maxidx.toNat := by
  rw [h.roundedQuotient_eq]
  generalize fdiv (fsub x (.fin neg u)) (.fin false d) = quotient
  unfold clampedIndex
  split_ifs with hnan hlo hhi
  · exact Nat.zero_le _
  · exact Nat.zero_le _
  · exact le_rfl
  · cases quotient with
    | nan pattern => exact absurd rfl hnan
    | inf sign =>
      have hmaxidx : u2f (maxidxU64 r) = _ := h.u2f_maxidx
      cases sign with
      | true => exact absurd rfl hlo
      | false => rw [hmaxidx] at hhi; exact absurd rfl hhi
    | fin sign units => exact h.f2u_le (Bool.eq_false_iff.2 hlo) (Bool.eq_false_iff.2 hhi)

end Table

/-- Settles O53. -/
theorem levelsNeverDecrease : Obligations.LevelsNeverDecrease := by
  intro r hinv hvalid
  obtain ⟨d, neg, u, h⟩ := exists_holdsTable hinv hvalid
  exact ⟨h.toWord_level_zero, fun i hi => ⟨h.isnan_level i, h.isnan_level (i + 1), h.flt_level_succ hi⟩⟩

/-- Settles O23: `DELTA` is finite and not 0 and `XMINQ` is finite, so neither the product nor the sum is a NaN. -/
theorem dequantIsNeverNan : Obligations.DequantIsNeverNan := by
  intro s hinv hvalid
  obtain ⟨d, neg, u, h⟩ := exists_holdsTable hinv hvalid
  refine ⟨_, exec_dequant_of_valid hvalid, ?_⟩
  rw [afterResult, h.ofWord_toWord_value]
  exact h.isnan_value _

/-- Settles O25: an in-range index is below 2^63, so it reads the same signed and unsigned. -/
theorem levelAndDequantAgree : Obligations.LevelAndDequantAgree := by
  intro s hinv hvalid hle
  obtain ⟨d, neg, u, h⟩ := exists_holdsTable hinv hvalid
  have hlt := h.maxidx_lt
  have hsigned : s.regs.opa.toInt = s.regs.opa.toNat := BitVec.toInt_eq_toNat_of_lt (by omega)
  have hdequant := exec_dequant_of_valid hvalid
  rw [hsigned, h.value_natCast] at hdequant
  exact ⟨_, by rw [exec_eq_apply, effect_level_of_le hvalid hle, apply_result], hdequant⟩

/-- Settles O21: the clamped index is in the table, and its decoded value is its level. -/
theorem quantAnswersALevelOfTheTable : Obligations.QuantAnswersALevelOfTheTable := by
  intro s hinv hvalid
  obtain ⟨d, neg, u, h⟩ := exists_holdsTable hinv hvalid
  refine ⟨_, exec_quant_of_valid hvalid rfl, h.clampedIndex_le _, ?_⟩
  exact congrArg toWord (h.value_natCast _)

/-- Settles O20: what the rounded quotient is for each operand, under the cases of the quantize steps. -/
theorem quantSaturatesInfinitiesAndNan : Obligations.QuantSaturatesInfinitiesAndNan := by
  intro s hinv hvalid
  obtain ⟨d, neg, u, h⟩ := exists_holdsTable hinv hvalid
  obtain ⟨hnan, hlo, hhi, hin⟩ := quantClampsTheRoundedQuotient s hvalid
  have hrounded : rint (fdiv (fsub (ofWord s.regs.opa) (ofWord s.regs.xminq)) (ofWord s.regs.delta)) =
      roundedQuotient s.regs (ofWord s.regs.opa) := rfl
  rw [hrounded] at hnan hlo hhi hin
  refine ⟨fun hx => ?_, fun hx => ?_, fun hx => ?_, fun hx => ?_, fun hx => ?_⟩
  · rw [hx, h.roundedQuotient_inf, h.u2f_maxidx] at hhi
    exact hhi rfl rfl rfl
  · rw [hx, h.roundedQuotient_inf] at hlo
    exact hlo rfl rfl
  · exact hnan ((h.isnan_roundedQuotient _).trans hx)
  · rw [hx, h.roundedQuotient_xminq, h.u2f_maxidx, f2u_fin_zero] at hin
    refine ⟨_, hin rfl (flt_zeros _ _) (flt_fin_false_zero _), rfl, ?_⟩
    exact (congrArg toWord (h.value_natCast 0)).trans h.toWord_level_zero
  · exact ⟨_, exec_quant_of_valid hvalid rfl, (h.isnan_roundedQuotient _).trans hx⟩

/-! ### Host programs, access by access -/

/-- Out of reset and on the registers `r`, the events run to their end, one step each, return the values and leave the registers
`r'`. -/
def Performs (r : Registers) (events : List HostEvent) (values : List Word) (r' : Registers) : Prop :=
  ∀ (s : State) (rest : List HostEvent), s.inReset = false → s.regs = r → remaining s = events ++ rest →
    ∃ t, Host.Core.run Sys2Proof.core events.length s = .next t ∧ t.inReset = false ∧ t.regs = r' ∧
      t.readValues = s.readValues ++ values ∧ remaining t = rest

theorem Performs.nil (r : Registers) : Performs r [] [] r := fun s _ hline hregs hrest =>
  ⟨s, rfl, hline, hregs, (List.append_nil _).symm, hrest⟩

/-- One program after another. -/
theorem Performs.append {r r' r'' : Registers} {events events' : List HostEvent} {values values' : List Word}
    (h : Performs r events values r') (h' : Performs r' events' values' r'') :
    Performs r (events ++ events') (values ++ values') r'' := by
  intro s rest hline hregs hrest
  rw [List.append_assoc] at hrest
  obtain ⟨t, hrun, hline', hregs', hvalues, hrest'⟩ := h s _ hline hregs hrest
  obtain ⟨t', hrun', hline'', hregs'', hvalues', hrest''⟩ := h' t rest hline' hregs' hrest'
  refine ⟨t', ?_, hline'', hregs'', ?_, hrest''⟩
  · rw [List.length_append, run_add _ _ _ _ hrun, hrun']
  · rw [hvalues', hvalues, List.append_assoc]

/-- One event, by the step on it. -/
theorem Performs.of_step {r r' : Registers} {e : HostEvent} {values : List Word}
    (h : ∀ s, s.inReset = false → s.regs = r → nextEvent s = some e →
      step s = .next { s with regs := r', readValues := s.readValues ++ values, pos := s.pos + 1 }) :
    Performs r [e] values r' := by
  intro s rest hline hregs hrest
  have hev : nextEvent s = some e := by rw [nextEvent_eq_head, hrest]; rfl
  have hrest' : remaining s.advance = rest := by rw [remaining_advance, hrest]; rfl
  have hstep : Sys2Proof.core.step s = _ := h s hline hregs hev
  refine ⟨{ s with regs := r', readValues := s.readValues ++ values, pos := s.pos + 1 }, ?_, hline, rfl, rfl, hrest'⟩
  simp only [List.length_singleton, Host.Core.run, hstep]

theorem performs_read (g : Reg) (r : Registers) : Performs r [asmRead g] [readReg g r] r :=
  .of_step fun s hline hregs hev => by
    subst hregs
    exact readReturns_readReg hline g hev

theorem performs_write_opa (v : Word) (r : Registers) :
    Performs r [hostWriteEvent (Reg.offset .opa) v] [] (writeReg (some .opa) v r) :=
  .of_step fun s hline hregs hev => by
    subst hregs
    rw [List.append_nil]
    exact writeLeaves_offset v hline (g := .opa) nofun hev

theorem writeReg_opa (v : Word) (r : Registers) : (writeReg (some .opa) v r).opa = v := rfl

/-- A command's line carries out its effect. -/
theorem performs_command {i : Instr} (hi : i.wellFormed = true) (r : Registers) :
    Performs r [asmCommand i] [] ((effect i r).onRegs r) :=
  .of_step fun s hline hregs hev => by
    subst hregs
    have hdecode : decode (encode i) = .ok i := decodeOfEncodeIsTheCommand i hi
    have harrives : CommandArrives s (encode i) := ⟨hline, hev⟩
    rw [step_of_commandArrives harrives, writeCmd_of_decode_ok hdecode, exec_eq_apply, List.append_nil]
    rfl

/-- Two register sets hold the same configuration, committed in both or in neither. -/
def SameConfiguration (r r' : Registers) : Prop :=
  configuration r' = configuration r ∧ r'.status.cfgValid = r.status.cfgValid

theorem SameConfiguration.trans {r r' r'' : Registers} (h : SameConfiguration r r') (h' : SameConfiguration r' r'') :
    SameConfiguration r r'' :=
  ⟨h'.1.trans h.1, h'.2.trans h.2⟩

/-- The events return the values and leave the configuration. -/
def Reads (r : Registers) (events : List HostEvent) (values : List Word) : Prop :=
  ∃ r', SameConfiguration r r' ∧ Performs r events values r'

/-- A program made of one block per element, each of which reads its values under the configuration of `r₀`. -/
theorem reads_flatMap {α : Type} {block : α → List HostEvent} {values : α → List Word} {r₀ r : Registers} (xs : List α)
    (hblock : ∀ x ∈ xs, ∀ r, SameConfiguration r₀ r → Reads r (block x) (values x)) (hr : SameConfiguration r₀ r) :
    Reads r (xs.flatMap block) (xs.flatMap values) := by
  induction xs generalizing r with
  | nil => exact ⟨r, ⟨rfl, rfl⟩, .nil r⟩
  | cons x xs ih =>
    obtain ⟨r', hsame, hhead⟩ := hblock x List.mem_cons_self r hr
    obtain ⟨r'', hsame', htail⟩ := ih (fun y hy => hblock y (List.mem_cons_of_mem x hy)) (hr.trans hsame)
    exact ⟨r'', hsame.trans hsame', hhead.append htail⟩

/-- A program of blocks of one length takes that many steps for each element. -/
theorem length_flatMap_of_length {α : Type} {block : α → List HostEvent} {k : Nat} (h : ∀ x, (block x).length = k)
    (xs : List α) : (xs.flatMap block).length = k * xs.length := by
  induction xs with
  | nil => rfl
  | cons x xs ih => rw [List.flatMap_cons, List.length_append, h, ih, List.length_cons, Nat.mul_succ, Nat.add_comm]

/-! ### The array accesses -/

/-- The tables and the quantize steps read the configuration only. -/
theorem SameConfiguration.eq {r₀ r : Registers} (h : SameConfiguration r₀ r) :
    r.nbits = r₀.nbits ∧ r.maxidx = r₀.maxidx ∧ level r = level r₀ ∧ threshold r = threshold r₀ ∧
      quantPair r = quantPair r₀ := by
  obtain ⟨_, _, _, _, _, _, _, _, nb, lo, hi, dl, xq, mi⟩ := r
  obtain ⟨_, _, _, _, _, _, _, _, nb', lo', hi', dl', xq', mi'⟩ := r₀
  simp only [SameConfiguration, configuration, List.cons.injEq, and_true] at h
  obtain ⟨⟨rfl, rfl, rfl, rfl, rfl, rfl⟩, -⟩ := h
  exact ⟨rfl, rfl, rfl, rfl, rfl⟩

theorem effect_quant_of_valid {r : Registers} (h : r.status.cfgValid = true) :
    ∃ flags decoded idx, effect .quant r = .quantized flags decoded idx ∧ quantPair r r.opa = [decoded, idx] := by
  rw [effect, needsConfiguration_of_valid _ h, quantPair, opaBinary64]
  exact ⟨_, _, _, rfl, rfl⟩

/-- QUANT and the reads of its two results. -/
theorem reads_quant {r : Registers} (h : r.status.cfgValid = true) :
    Reads r [asmCommand .quant, asmRead .res0, asmRead .res1] (quantPair r r.opa) := by
  obtain ⟨flags, decoded, idx, heffect, hpair⟩ := effect_quant_of_valid h
  have hcommand := performs_command (i := .quant) rfl r
  rw [heffect] at hcommand
  have hperforms := hcommand.append ((performs_read .res0 _).append (performs_read .res1 _))
  rw [hpair]
  refine ⟨_, ⟨?_, ?_⟩, hperforms⟩
  · rfl
  · rfl

/-- One element of `QUANTIZE_ARRAY` reads its pair. -/
theorem reads_quantizeElement (x : Word) {r : Registers} (h : r.status.cfgValid = true) :
    Reads r (quantizeElement x) (quantPair r x) := by
  have hwrite : SameConfiguration r (writeReg (some .opa) x r) := ⟨rfl, rfl⟩
  obtain ⟨r', hsame, hperforms⟩ := reads_quant (r := writeReg (some .opa) x r) h
  obtain ⟨-, -, -, -, hpair⟩ := hwrite.eq
  rw [hpair, writeReg_opa] at hperforms
  exact ⟨r', hwrite.trans hsame, (performs_write_opa x r).append hperforms⟩

/-- One entry of a table reads the single result of its command. -/
theorem reads_readEntry {i : Instr} (hi : i.wellFormed = true) {position : Nat} {r : Registers} {entry : Word}
    (h : effect i (writeReg (some .opa) (BitVec.ofInt 64 position) r) = .result entry 0 0 0) :
    Reads r (readEntry i position) [entry] := by
  have hwrite := performs_write_opa (BitVec.ofInt 64 position) r
  have hcommand := performs_command hi (writeReg (some .opa) (BitVec.ofInt 64 position) r)
  rw [h] at hcommand
  have hperforms := hwrite.append (hcommand.append (performs_read .res0 _))
  refine ⟨_, ⟨?_, ?_⟩, hperforms⟩
  · rfl
  · rfl

/-- The position that a line writes to `OPA`. -/
theorem toNat_ofInt_natCast {n : Nat} (h : n < 2 ^ 64) : (BitVec.ofInt 64 n).toNat = n := by
  rw [BitVec.ofInt_natCast, BitVec.toNat_ofNat, Nat.mod_eq_of_lt h]

theorem reads_readEntry_level {position : Nat} {r : Registers} (h : r.status.cfgValid = true)
    (hle : position ≤ r.maxidx.toNat) :
    Reads r (readEntry .level position) [toWord (level r position)] := by
  have hposition := toNat_ofInt_natCast (n := position) (hle.trans_lt r.maxidx.isLt)
  have heffect := effect_level_of_le (r := writeReg (some .opa) (BitVec.ofInt 64 position) r) h (hposition.trans_le hle)
  rw [writeReg_opa, hposition] at heffect
  exact reads_readEntry rfl heffect

theorem reads_readEntry_thrld {position : Nat} {r : Registers} (h : r.status.cfgValid = true)
    (hword : position < 2 ^ 64) (hlt : position + 2 < 2 ^ r.nbits.toNat) :
    Reads r (readEntry .thrld position) [toWord (threshold r position)] := by
  have hposition := toNat_ofInt_natCast hword
  have heffect := effect_thrld_of_lt (r := writeReg (some .opa) (BitVec.ofInt 64 position) r) h
    (by rwa [writeReg_opa, hposition])
  rw [writeReg_opa, hposition] at heffect
  exact reads_readEntry rfl heffect

/-- Settles O48: each element reads its pair and leaves the configuration for the next. -/
theorem quantizeArrayReadsEveryPair : Obligations.QuantizeArrayReadsEveryPair := by
  intro xs rest s hline hvalid hrest
  have helement : ∀ x ∈ xs, ∀ r, SameConfiguration s.regs r → Reads r (quantizeElement x) (quantPair s.regs x) := by
    intro x _ r hr
    obtain ⟨-, -, -, -, hpair⟩ := hr.eq
    exact hpair ▸ reads_quantizeElement x (hr.2.trans hvalid)
  obtain ⟨r', ⟨hconfig, hkeeps⟩, hperforms⟩ := reads_flatMap xs helement ⟨rfl, rfl⟩
  obtain ⟨t, hrun, -, rfl, hvalues, hrest'⟩ := hperforms s rest hline rfl hrest
  rw [length_flatMap_of_length (k := 4) fun _ => rfl] at hrun
  exact ⟨t, hrun, hvalues, hrest', hconfig, hkeeps.trans hvalid⟩

/-- Reading `n` entries of a table, each of them a single result, gives the table. -/
theorem run_reads_table {i : Instr} {n : Nat} {entry : Nat → Word} {s : State} {rest : List HostEvent}
    (hline : s.inReset = false)
    (hentry : ∀ k < n, ∀ r, SameConfiguration s.regs r → Reads r (readEntry i k) [entry k])
    (hrest : remaining s = (List.range n).flatMap (readEntry i) ++ rest) :
    ∃ t, Host.Core.run Sys2Proof.core (3 * n) s = .next t ∧
      t.readValues = s.readValues ++ (List.range n).map entry ∧ remaining t = rest := by
  obtain ⟨r', -, hperforms⟩ := reads_flatMap (List.range n) (fun k hk => hentry k (List.mem_range.1 hk)) ⟨rfl, rfl⟩
  obtain ⟨t, hrun, -, -, hvalues, hrest'⟩ := hperforms s rest hline rfl hrest
  rw [length_flatMap_of_length (k := 3) fun _ => rfl, List.length_range] at hrun
  exact ⟨t, hrun, by rw [hvalues, List.map_eq_flatMap], hrest'⟩

/-- Settles O49: every position of either table is in range, so its command answers the entry. -/
theorem tableReadsGiveTheWholeTable : Obligations.TableReadsGiveTheWholeTable := by
  intro rest s hline hvalid hbits
  refine ⟨run_reads_table hline fun k hk r hr => ?_, run_reads_table hline fun k hk r hr => ?_⟩
  · obtain ⟨-, hmaxidx, hlevel, -, -⟩ := hr.eq
    rw [← hlevel]
    exact reads_readEntry_level (hr.2.trans hvalid) (by rw [hmaxidx]; omega)
  · obtain ⟨hnbits, -, -, hthreshold, -⟩ := hr.eq
    have hcount : 2 ^ s.regs.nbits.toNat ≤ 2 ^ 32 := Nat.pow_le_pow_right Nat.two_pos hbits
    rw [← hthreshold]
    exact reads_readEntry_thrld (hr.2.trans hvalid) (by omega) (by rw [hnbits]; omega)

end Sys2Proof.Machine
end

section
/-! PROOFS of 42_bitcodec.md's statements. A field built bit by bit is known from its bits (`fieldOfBits_testBit`): I2B and B2I
both keep `OPA` modulo `2^w`, and I2T's field is `2^L - 2^(L-k)`. The statements on the commands read off their effects; the
one on R158's program follows `ERR_STICKY` through its rows. -/

namespace Sys2Proof.Machine

/-! ### The low bits of a word -/

/-- A field built from the bits of a number is that number modulo `2^len`. -/
theorem fieldOfBits_of_testBit {bit : Nat → Bool} {n len : Nat} (h : ∀ i < len, bit i = n.testBit i) :
    fieldOfBits bit len = n % 2 ^ len := by
  refine Nat.eq_of_testBit_eq fun i => ?_
  rw [fieldOfBits_testBit, Nat.testBit_mod_two_pow]
  by_cases hi : i < len
  · rw [h i hi]
  · rw [decide_eq_false hi, Bool.false_and, Bool.false_and]

/-- A word's two's-complement value is odd exactly if bit 0 is 1. -/
theorem toInt_emod_two_beq_one (v : Word) : (v.toInt % 2 == 1) = v.getLsbD 0 := by
  rw [BitVec.getLsbD, Nat.testBit_zero, BitVec.toInt_eq_toNat_cond, Bool.eq_iff_iff, beq_iff_eq, decide_eq_true_iff]
  split <;> omega

/-- The bits of the signed integer in a word are the bits of its pattern. -/
theorem signedBit_toInt (v : Word) {i : Nat} (hi : i < 64) : signedBit v.toInt i = v.getLsbD i := by
  rw [signedBit, ← BitVec.toInt_sshiftRight, toInt_emod_two_beq_one, BitVec.getLsbD_sshiftRight]
  simp [hi]

theorem signedBit_eq_decide (n : Int) (i : Nat) : signedBit n i = decide (n / 2 ^ i % 2 = 1) := by
  rw [signedBit, Int.shiftRight_eq_div_pow, Bool.beq_eq_decide_eq]
  norm_cast

theorem bitsToInt_eq_mod (v : Word) (len : Nat) : bitsToInt v len = v.toNat % 2 ^ len :=
  fieldOfBits_of_testBit fun _ _ => rfl

theorem intToBits_toInt_eq_mod (v : Word) {w : Nat} (hw : w ≤ 64) : intToBits v.toInt w = v.toNat % 2 ^ w :=
  fieldOfBits_of_testBit fun _ hi => signedBit_toInt v (hi.trans_le hw)

theorem toNat_and_mask (v : Word) {w : Nat} (hw : w ≤ 64) :
    (v &&& BitVec.ofNat 64 (mask w)).toNat = v.toNat % 2 ^ w := by
  have hmask : mask w < 2 ^ 64 :=
    (Nat.sub_lt Nat.one_le_two_pow Nat.one_pos).trans_le (Nat.pow_le_pow_right Nat.two_pos hw)
  rw [BitVec.toNat_and, BitVec.toNat_ofNat, Nat.mod_eq_of_lt hmask, mask, Nat.and_two_pow_sub_one_eq_mod]

/-- The word of a field that holds the low `w` bits of a word. -/
theorem fieldWord_mod_two_pow (v : Word) {w : Nat} (hw : w ≤ 64) :
    fieldWord (v.toNat % 2 ^ w) 0 = v &&& BitVec.ofNat 64 (mask w) := by
  refine BitVec.eq_of_toNat_eq ?_
  rw [toNat_and_mask v hw, fieldWord, Nat.mul_zero, Nat.pow_zero, Nat.div_one, BitVec.toNat_ofNat,
    Nat.mod_eq_of_lt ((Nat.mod_le _ _).trans_lt v.isLt)]

/-! ### I2B and B2I -/

theorem exec_i2b_of_le {w : Nat} (hw : w ≤ 64) (s : State) :
    exec (.i2b w) s = .next (afterResult (s.regs.opa &&& BitVec.ofNat 64 (mask w)) 0 0 0 s) := by
  rw [exec_eq_apply, effect, Config.bwMax, if_neg hw.not_gt, apply_result, opaS64, asS64, intToBits_toInt_eq_mod _ hw,
    fieldWord_mod_two_pow _ hw]

theorem exec_b2i_of_le {len : Nat} (hlen : len ≤ 64) (s : State) :
    exec (.b2i len) s = .next (afterResult (s.regs.opa &&& BitVec.ofNat 64 (mask len)) 0 0 0 s) := by
  rw [exec_eq_apply, effect, Config.bwMax, if_neg hlen.not_gt, apply_result, bitsToInt_eq_mod, fieldWord_mod_two_pow _ hlen]

/-- Settles O28: the bits of the signed integer are those of the word. -/
theorem i2bKeepsTheLowBits : Obligations.I2bKeepsTheLowBits := by
  intro w s
  refine ⟨fun hw => exec_i2b_of_le hw s, fun hw => ?_⟩
  rw [exec_eq_apply, effect, Config.bwMax, if_pos hw, apply_error]

/-- Settles O30. -/
theorem b2iReadsTheLowBits : Obligations.B2iReadsTheLowBits := by
  intro len s
  refine ⟨fun hlen => exec_b2i_of_le hlen s, fun hlen => ?_⟩
  rw [exec_eq_apply, effect, Config.bwMax, if_pos hlen, apply_error]

/-- A vector lists its field's bits from the highest down (10_state.md R31). -/
theorem getElem?_vectorOf {len j : Nat} (hj : j < len) (field : Nat) :
    (vectorOf len field)[j]? = some (field.testBit (len - 1 - j)) := by
  rw [vectorOf, List.getElem?_map, List.getElem?_range hj]
  rfl

/-- Settles O29: element `w-1-i` is bit `i` of the field, which is bit `i` of the integer. -/
theorem i2bVectorIsMsbFirst : Obligations.I2bVectorIsMsbFirst := by
  intro w s hw
  refine ⟨_, exec_i2b_of_le hw s, fun i hi => ?_⟩
  have hbit : w - 1 - (w - 1 - i) = i := by omega
  rw [getElem?_vectorOf (by omega), hbit, afterResult, toNat_and_mask _ hw, Nat.testBit_mod_two_pow, decide_eq_true hi,
    Bool.true_and, ← signedBit_eq_decide, signedBit_toInt _ (hi.trans_le hw)]
  rfl

theorem toInt_eq_toNat_of_nonneg {v : Word} (h : 0 ≤ v.toInt) : v.toInt = v.toNat :=
  BitVec.toInt_eq_toNat_of_lt (BitVec.toInt_pos_iff.1 h)

/-- Settles O31: either command keeps `OPA` modulo `2^w`. -/
theorem bitCodecRoundTrip : Obligations.BitCodecRoundTrip := by
  intro w s hw
  have hmod : (s.regs.opa &&& BitVec.ofNat 64 (mask w) &&& BitVec.ofNat 64 (mask w)).toNat = s.regs.opa.toNat % 2 ^ w := by
    rw [toNat_and_mask _ hw, toNat_and_mask _ hw, Nat.mod_mod]
  refine ⟨_, _, exec_i2b_of_le hw s, exec_b2i_of_le hw _, hmod, fun hnonneg hlt => BitVec.eq_of_toNat_eq ?_⟩
  rw [toInt_eq_toNat_of_nonneg hnonneg] at hlt
  exact hmod.trans (Nat.mod_eq_of_lt (by exact_mod_cast hlt))

/-! ### The thermometer field -/

/-- Bit `i` is element `len-1-i`, which is 1 exactly if it is one of the first `k` (R154). -/
theorem testBit_intToThermometer (k len i : Nat) :
    (intToThermometer k len).testBit i = (decide (i < len) && decide (len - 1 - i < k)) := fieldOfBits_testBit ..

/-- The ones stand at the top: `k` ones above `len - k` zeros. -/
theorem intToThermometer_eq {k len : Nat} (h : k ≤ len) : intToThermometer k len = 2 ^ len - 2 ^ (len - k) := by
  have hpow : 2 ^ len - 2 ^ (len - k) = 2 ^ (len - k) * (2 ^ k - 1) := by
    rw [Nat.mul_sub, ← Nat.pow_add, Nat.sub_add_cancel h, Nat.mul_one]
  refine Nat.eq_of_testBit_eq fun i => ?_
  rw [testBit_intToThermometer, hpow, Nat.testBit_two_pow_mul, Nat.testBit_two_pow_sub_one, ← Bool.decide_and,
    ← Bool.decide_and, decide_eq_decide]
  omega

theorem vectorOf_intToThermometer {k len : Nat} (h : k ≤ len) :
    vectorOf len (intToThermometer k len) = List.replicate k true ++ List.replicate (len - k) false := by
  refine List.ext_getElem (by simp [vectorOf, h]) fun j hj _ => ?_
  have hlen : j < len := by simpa [vectorOf] using hj
  have hbit : len - 1 - (len - 1 - j) = j := by omega
  have hin : len - 1 - j < len := by omega
  simp [vectorOf, vectorElement, testBit_intToThermometer, hbit, hin, List.getElem_append]

theorem toNat_append_word {m : Nat} (x : BitVec m) (y : Word) : (x ++ y).toNat = x.toNat * 2 ^ 64 + y.toNat := by
  rw [BitVec.toNat_append, ← Nat.shiftLeft_add_eq_or_of_lt y.isLt, Nat.shiftLeft_eq]

/-- The four result words hold a field of at most 256 bits (10_state.md R31). -/
theorem toNat_fieldWords {field : Nat} (h : field < 2 ^ 256) :
    (fieldWord field 3 ++ fieldWord field 2 ++ fieldWord field 1 ++ fieldWord field 0).toNat = field := by
  simp only [fieldWord, toNat_append_word, BitVec.toNat_ofNat]
  omega

/-! ### I2T -/

theorem effect_i2t_of_badWidth {b : Nat} (hb : 8 < b) (r : Registers) : effect (.i2t b) r = .error .badWidth :=
  if_pos hb

theorem effect_i2t_of_range {b : Nat} {r : Registers} (hb : b ≤ 8) (hk : r.opa.toInt < 0 ∨ 2 ^ b < r.opa.toInt) :
    effect (.i2t b) r = .error .range := by
  rw [effect, Config.tbMax, if_neg hb.not_gt, opaS64, asS64, if_pos (by exact_mod_cast hk)]

theorem effect_i2t_of_mem {b : Nat} {r : Registers} (hb : b ≤ 8) (hnonneg : 0 ≤ r.opa.toInt) (hle : r.opa.toInt ≤ 2 ^ b) :
    effect (.i2t b) r =
      .result (fieldWord (intToThermometer r.opa.toNat (2 ^ b)) 0) (fieldWord (intToThermometer r.opa.toNat (2 ^ b)) 1)
        (fieldWord (intToThermometer r.opa.toNat (2 ^ b)) 2) (fieldWord (intToThermometer r.opa.toNat (2 ^ b)) 3) := by
  have hin : ¬ (r.opa.toInt < 0 ∨ ((2 ^ b : Nat) : Int) < r.opa.toInt) :=
    not_or.2 ⟨hnonneg.not_gt, not_lt.2 (by exact_mod_cast hle)⟩
  have hk : r.opa.toInt.toNat = r.opa.toNat := by rw [toInt_eq_toNat_of_nonneg hnonneg, Int.toNat_natCast]
  rw [effect, Config.tbMax, if_neg hb.not_gt, opaS64, asS64, if_neg hin, hk]

/-- An integer that I2T accepts is a number of ones of the vector. -/
theorem toNat_le_two_pow {v : Word} {b : Nat} (hnonneg : 0 ≤ v.toInt) (hle : v.toInt ≤ 2 ^ b) : v.toNat ≤ 2 ^ b := by
  rw [toInt_eq_toNat_of_nonneg hnonneg] at hle
  exact_mod_cast hle

/-- Settles O32, in the order of I2T's checks. -/
theorem i2tBuildsTheThermometerField : Obligations.I2tBuildsTheThermometerField := by
  intro b s
  refine ⟨fun hb hnonneg hle => ?_, fun hb => ?_, fun hb hk => ?_⟩
  · intro field
    have hfield : intToThermometer s.regs.opa.toNat (2 ^ b) = field := intToThermometer_eq (toNat_le_two_pow hnonneg hle)
    rw [exec_eq_apply, effect_i2t_of_mem hb hnonneg hle, hfield, apply_result]
    simp only [fieldWord, Nat.mul_zero, Nat.pow_zero, Nat.div_one]
  · rw [exec_eq_apply, effect_i2t_of_badWidth hb, apply_error]
  · rw [exec_eq_apply, effect_i2t_of_range hb hk, apply_error]

/-- Settles O33: the result words hold the whole field, whose vector is the thermometer. -/
theorem thermometerIsOnesThenZeros : Obligations.ThermometerIsOnesThenZeros := by
  intro b s hb hnonneg hle
  have hfield : intToThermometer s.regs.opa.toNat (2 ^ b) < 2 ^ 256 :=
    (fieldOfBits_lt _ _).trans_le (Nat.pow_le_pow_right Nat.two_pos (Nat.pow_le_pow_right Nat.two_pos hb))
  refine ⟨_, by rw [exec_eq_apply, effect_i2t_of_mem hb hnonneg hle, apply_result], ?_⟩
  rw [resultField, afterResult, toNat_fieldWords hfield, vectorOf_intToThermometer (toNat_le_two_pow hnonneg hle)]

/-! ### A program with a sticky error -/

/-- `ERR_STICKY` is set by an error and by nothing else a command does (R92, R93). -/
theorem Effect.errSticky_onRegs_iff (e : Effect) (r : Registers) :
    (e.onRegs r).status.errSticky = true ↔ r.status.errSticky = true ∨ ∃ code, e = .error code := by
  cases e with
  | error code => exact iff_of_true rfl (.inr ⟨code, rfl⟩)
  | noResult | commit | quantized | result => exact (or_iff_left nofun).symm

/-- I2T refuses an integer for its width or its range. -/
theorem effect_i2t_error_iff (b : Nat) (r : Registers) :
    (∃ code, effect (.i2t b) r = .error code) ↔ 8 < b ∨ r.opa.toInt < 0 ∨ 2 ^ b < r.opa.toInt := by
  by_cases hb : 8 < b
  · simp [effect_i2t_of_badWidth hb, hb]
  by_cases hk : r.opa.toInt < 0 ∨ 2 ^ b < r.opa.toInt
  · simp [effect_i2t_of_range (not_lt.1 hb) hk, hk]
  · obtain ⟨hnonneg, hle⟩ := not_or.1 hk
    simp [effect_i2t_of_mem (not_lt.1 hb) (not_lt.1 hnonneg) (not_lt.1 hle), hb, hk]

theorem performs_reads (gs : List Reg) (r : Registers) : Performs r (gs.map asmRead) (gs.map fun g => readReg g r) r := by
  induction gs with
  | nil => exact .nil r
  | cons g gs ih => exact (performs_read g r).append ih

/-- The reads of a row of the matrix change no register. -/
theorem performs_thermometerReads (b : Nat) (r : Registers) : ∃ values, Performs r (thermometerReads b) values r := by
  unfold thermometerReads
  split_ifs
  · exact ⟨_, performs_reads [.res0, .res1, .res2, .res3] r⟩
  · exact ⟨_, performs_reads [.res0, .res1] r⟩
  · exact ⟨_, performs_reads [.res0] r⟩

/-- `CLRERR` writes bit 1 of `STATUS` (30_encoding.md R77). -/
theorem performs_clearErrors (r : Registers) :
    ∃ r', Performs r [clearErrors] [] r' ∧ r'.status.errSticky = false :=
  ⟨writeReg (some .status) (BitVec.ofInt 64 2) r, .of_step fun s hline hregs hev => by
    subst hregs
    rw [List.append_nil]
    exact writeLeaves_offset _ hline (g := .status) nofun hev, Bool.and_false _⟩

/-- The events run to their end and leave `ERR_STICKY` set exactly if it was set before or `p` holds. -/
def Reports (r : Registers) (events : List HostEvent) (p : Prop) : Prop :=
  ∃ values r', Performs r events values r' ∧ (r'.status.errSticky = true ↔ r.status.errSticky = true ∨ p)

/-- A program made of one block per element reports an error exactly if some block does. -/
theorem reports_flatMap {α : Type} {block : α → List HostEvent} {p : α → Prop}
    (hblock : ∀ x r, Reports r (block x) (p x)) (xs : List α) (r : Registers) :
    Reports r (xs.flatMap block) (∃ x ∈ xs, p x) := by
  induction xs generalizing r with
  | nil => exact ⟨[], r, .nil r, by simp⟩
  | cons x xs ih =>
    obtain ⟨values, r', hhead, hsticky⟩ := hblock x r
    obtain ⟨values', r'', htail, hsticky'⟩ := ih r'
    exact ⟨_, r'', hhead.append htail, by rw [hsticky', hsticky, or_assoc, List.exists_mem_cons_iff]⟩

/-- A row of the matrix reports an error exactly if I2T refuses its integer. -/
theorem reports_thermometerRow {b : Nat} (hb : b ≤ 255) (x : Int) (r : Registers) :
    Reports r ([asmWrite .opa x, asmCommand (.i2t b)] ++ thermometerReads b)
      (8 < b ∨ (BitVec.ofInt 64 x).toInt < 0 ∨ 2 ^ b < (BitVec.ofInt 64 x).toInt) := by
  have hwf : (Instr.i2t b).wellFormed = true := decide_eq_true (Nat.lt_succ_of_le hb)
  have hcommand := (performs_write_opa (BitVec.ofInt 64 x) r).append (performs_command hwf _)
  obtain ⟨values, hreads⟩ := performs_thermometerReads b _
  refine ⟨_, _, hcommand.append hreads, ?_⟩
  rw [Effect.errSticky_onRegs_iff, effect_i2t_error_iff, writeReg_opa]
  rfl

/-- Settles O50: `CLRERR` starts from no error, each row adds its own, and the last read is of `STATUS`. -/
theorem thermoMatrixReportsAnyBadRow : Obligations.ThermoMatrixReportsAnyBadRow := by
  intro xs b rest s hline hb hrest
  obtain ⟨r₀, hclear, hcleared⟩ := performs_clearErrors s.regs
  obtain ⟨values, r, hrows, hsticky⟩ := reports_flatMap (reports_thermometerRow hb) xs r₀
  obtain ⟨t, hrun, -, rfl, hvalues, hrest'⟩ :=
    ((hclear.append hrows).append (performs_read .status r)) s rest hline rfl hrest
  refine ⟨t, hrun, ?_, hrest', ?_⟩
  · rw [hvalues, ← List.append_assoc, List.getLast?_concat]
    rfl
  · rw [hsticky, hcleared]
    simp only [Bool.false_eq_true, false_or]

end Sys2Proof.Machine
end

section
/-! PROOFS of 60_exceptions.md's statements. The code a command reports is that of its effect (`errCode_of_exec`), and the checks of
an effect stand in the order of R184: the code of a guarded effect is the guard's, or that of what it guards. -/

namespace Sys2Proof.Machine

/-! ### The code of a guarded effect -/

theorem code_needsConfiguration (r : Registers) (e : Effect) :
    (needsConfiguration r e).code = if r.status.cfgValid = false then .notConfigured else e.code := by
  cases h : r.status.cfgValid with
  | false => rw [needsConfiguration_of_not_valid e h]; rfl
  | true => rw [needsConfiguration_of_valid e h]; rfl

theorem code_ite_error (p : Prop) [Decidable p] (code : ErrorCode) (e : Effect) :
    (if p then Effect.error code else e).code = if p then code else e.code :=
  apply_ite Effect.code p (.error code) e

/-! ### The first error of a command -/

/-- CONFIG tests for `UNSUPPORTED` before `BAD_CONFIG` (R184 item 2). -/
theorem code_effect_config (nb : Nat) (fzl : Bool) (r : Registers) :
    (effect (.config nb fzl) r).code = firstError (.config nb fzl) r := by
  cases fzl with
  | true => rw [effect_config_of_error ((configError_eq_unsupported_iff ..).2 rfl)]; rfl
  | false =>
    by_cases hbad : BadConfiguration nb (ofWord r.opa) (ofWord r.opb)
    · rw [effect_config_of_error (configError_of_badConfiguration hbad)]
      exact (if_pos hbad).symm
    · have hnone : configError nb false (opaBinary64 r) (opbBinary64 r) = none := (configError_eq_none_iff ..).2 ⟨rfl, hbad⟩
      simp only [effect, hnone]
      exact (if_neg hbad).symm

/-- A command's effect carries the first error that applies (R184 items 2 to 4). -/
theorem code_effect_eq_firstError (i : Instr) (r : Registers) : (effect i r).code = firstError i r := by
  cases i with
  | nop | onebit => rfl
  | config nb fzl => exact code_effect_config nb fzl r
  | quant | dequant =>
    rw [effect, code_needsConfiguration, firstError]
    cases r.status.cfgValid <;> rfl
  | level | thrld => rw [effect, code_needsConfiguration, code_ite_error]; rfl
  | i2b w | b2i w => rw [effect, code_ite_error]; rfl
  | i2t b =>
    rw [effect, code_ite_error, code_ite_error, Nat.cast_pow]
    rfl

/-- An illegal word reports `ILLEGAL` whatever the operands hold (R184 item 1). -/
theorem errCode_of_writeCmd_illegal {word : Word} {s t : State} (hword : (decode word).toOption = none)
    (h : writeCmd word s = .next t) : t.regs.status.errCode = .illegal := by
  obtain ⟨i, hok, -⟩ | ⟨e, -, hraise⟩ := writeCmd_cases word s
  · rw [hok] at hword
    cases hword
  · cases hraise.symm.trans h
    rfl

/-- Settles O39: illegal words first, then each command's checks in their order. -/
theorem firstApplicableErrorIsReported : Obligations.FirstApplicableErrorIsReported :=
  ⟨fun _ _ _ hword h => errCode_of_writeCmd_illegal hword h,
    fun i s _ h => (errCode_of_exec h).trans (code_effect_eq_firstError i s.regs)⟩

end Sys2Proof.Machine
end

section
/-! PROOFS of 70_reset_and_hazards.md's statements. Everything reads 0 on the reset registers, whatever the offset; and the step on an
admitted access moves the position by one and keeps the line and the program, so that a run over admitted accesses counts them off. -/

namespace Sys2Proof.Machine

/-- Settles O34, command by command: an error ends in a next state too (40_common.md R93). -/
theorem everyCommandCompletes : Obligations.EveryCommandCompletes := exec_exists_next

/-! ### Reset -/

theorem readReg_reset (g : Reg) : readReg g Registers.reset = 0 := by
  cases g <;> rfl

/-- A slot that holds no register reads 0 too (20_memory.md R54). -/
theorem readSlot_reset (off : Int) : readSlot off Registers.reset = 0 := by
  unfold readSlot
  cases regAt off with
  | none => rfl
  | some g => exact readReg_reset g

theorem configInvariant_reset : ConfigInvariant Registers.reset :=
  ⟨fun _ => ⟨rfl, rfl, rfl, rfl, rfl, rfl⟩, fun hvalid => nomatch hvalid⟩

/-- Settles O44: the reset registers are the unconfigured ones of R35, and all of them are 0. -/
theorem resetMeetsTheInvariant : Obligations.ResetMeetsTheInvariant :=
  ⟨fun _ => configInvariant_reset, readReg_reset, readSlot_reset⟩

theorem moveResetLine_release {s : State} (h : s.inReset = true) :
    moveResetLine false s = { s with inReset := false, regs := Registers.reset } := by
  simp only [moveResetLine, h]

/-- Settles O46: an access in reset is a bus error, and the release writes the reset registers. -/
theorem releasedResetRestoresEveryRegister : Obligations.ReleasedResetRestoresEveryRegister := by
  intro s hreset
  refine ⟨fun a hev => step_fault_of_busError ⟨a, hev, .inl hreset⟩, fun hev => ?_⟩
  have hstep : step s = .next (State.advance { s with inReset := false, regs := Registers.reset }) := by
    rw [step_of_nextEvent hev, performEvent, moveResetLine_release hreset, thenAdvance]
  exact ⟨_, hstep, rfl, rfl, readSlot_reset, rfl, rfl, rfl⟩

/-! ### A run over admitted accesses -/

/-- An admitted write changes registers only, through `CMD` as through the other slots. -/
theorem hostWrite_eq_withRegs (off : Int) (v : Word) (s : State) : ∃ r, hostWrite off v s = .next (s.withRegs r) := by
  obtain ⟨-, hcmd⟩ | ⟨-, hslot⟩ := hostWrite_cases off v s
  · obtain ⟨i, -, hexec⟩ | ⟨e, -, hillegal⟩ := writeCmd_cases v s
    · exact ⟨_, (hcmd.trans hexec).trans (exec_eq_apply i s)⟩
    · exact ⟨_, hcmd.trans hillegal⟩
  · exact ⟨_, hslot⟩

/-- An admitted event is an access, and outside reset it is no bus error. -/
theorem not_busError_of_admitted {s : State} {e : HostEvent} (hline : s.inReset = false) (hev : nextEvent s = some e)
    (hadm : admittedEvent e = true) : ¬ BusError s := by
  cases e with
  | access a => exact fun hbus => (busError_iff_not_admitted hline hev).1 hbus hadm
  | resetLine asserted => exact nomatch hadm

/-- The step on an admitted access, up to the registers and the values read (R205). -/
theorem step_of_admitted {s : State} {e : HostEvent} (hline : s.inReset = false) (hev : nextEvent s = some e)
    (hadm : admittedEvent e = true) :
    ∃ r values, step s = .next { s with regs := r, readValues := values, pos := s.pos + 1 } := by
  obtain ⟨t, ht⟩ := step_next_of_not_busError (not_busError_of_admitted hline hev hadm)
  obtain ⟨hnone, -⟩ | ⟨off, -, -, -, rfl⟩ | ⟨off, v, u, -, -, -, hwrite, rfl⟩ | ⟨asserted, hreset, -⟩ := step_cases s t ht
  · cases hev.symm.trans hnone
  · exact ⟨_, _, ht⟩
  · obtain ⟨r, hr⟩ := hostWrite_eq_withRegs off v s
    cases hwrite.symm.trans hr
    exact ⟨_, _, ht⟩
  · cases hev.symm.trans hreset
    cases hadm

theorem run_succ_of_step {s t : State} (h : step s = .next t) (n : Nat) :
    Host.Core.run Sys2Proof.core (n + 1) s = Host.Core.run Sys2Proof.core n t := by
  have hcore : Sys2Proof.core.step s = .next t := h
  simp only [Host.Core.run, hcore]

/-- A run over what remains of a host program, one step for each access. -/
theorem run_of_admitted {events : List HostEvent} {s : State} (hline : s.inReset = false) (hrest : remaining s = events)
    (hadm : ∀ e ∈ events, admittedEvent e = true) :
    ∃ t, Host.Core.run Sys2Proof.core events.length s = .next t ∧ t.program = s.program ∧
      t.pos = s.pos + events.length := by
  induction events generalizing s with
  | nil => exact ⟨s, rfl, rfl, rfl⟩
  | cons e events ih =>
    have hev : nextEvent s = some e := by rw [nextEvent_eq_head, hrest]; rfl
    have hrest' : remaining s.advance = events := by rw [remaining_advance, hrest]; rfl
    obtain ⟨r, values, hstep⟩ := step_of_admitted hline hev (hadm e List.mem_cons_self)
    obtain ⟨t, hrun, hprogram, hpos⟩ :=
      ih (s := { s with regs := r, readValues := values, pos := s.pos + 1 }) hline hrest'
        fun e' he' => hadm e' (List.mem_cons_of_mem e he')
    refine ⟨t, (run_succ_of_step hstep _).trans hrun, hprogram, ?_⟩
    rw [hpos, List.length_cons, Nat.add_assoc, Nat.add_comm 1]

/-- Once the last access is done the block keeps its state (log 2). -/
theorem step_of_runEnded {s : State} (h : runEnded s = true) : step s = .next s := by
  have hnone : nextEvent s = none := List.getElem?_eq_none (of_decide_eq_true h)
  rw [step, hnone]

/-- Settles O47: from position 0 the whole program remains. -/
theorem admittedRunsReachTheirEnd : Obligations.AdmittedRunsReachTheirEnd := by
  intro s hline hpos hhost
  have hrest : remaining s = s.program := by rw [remaining, hpos, List.drop_zero]
  obtain ⟨t, hrun, hprogram, hend⟩ := run_of_admitted hline hrest (List.all_eq_true.1 hhost)
  rw [hpos, Nat.zero_add] at hend
  have hended : runEnded t = true := decide_eq_true (by rw [hprogram, hend])
  exact ⟨t, hrun, hended, hend, hprogram, step_of_runEnded hended⟩

end Sys2Proof.Machine
end
